-- ==== Sys2Proof/Word.lean ====
section
/-! DEFINITION. The widths of the block: registers, ports and the request word (00_scope.md section 4). -/

namespace Sys2Proof

/-- An 8-bit register: A, X, Y, SP or P (10_state.md R10). -/
abbrev Byte := BitVec 8

/-- A 16-bit value: PC, `wdata`, `rdata` (10_state.md R10, 30_encoding.md R40). -/
abbrev Word := BitVec 16

/-- The request word `req[9:0]` (30_encoding.md R41). -/
abbrev ReqWord := BitVec 10

end Sys2Proof
end

