-- ==== Sys2Proof/Syntax.lean ====
section
/-! DEFINITION. Registers, flags, the request on the input ports, the 31 requests of spec/opcode_table.json, the named
reasons for which a word is reserved, and the lines of an assembler program (30_encoding.md). -/

namespace Sys2Proof

/-- The six registers, in the order of their select numbers 0 to 5 (30_encoding.md R42). -/
inductive Reg where
  | a
  | x
  | y
  | sp
  | pc
  | p
deriving DecidableEq, Repr

/-- The eight named bits of the status word, in the order of their bit positions 0 to 7 (30_encoding.md R43). -/
inductive Flag where
  /-- Carry, bit 0 (10_state.md R17). -/
  | c
  /-- Zero, bit 1 (R18). -/
  | z
  /-- Interrupt-disable, bit 2 (R19). -/
  | i
  /-- Decimal, bit 3 (R20). -/
  | d
  /-- Break, bit 4 (R21). -/
  | b
  /-- Unused, bit 5: a storage bit like the others (R22, R26; 90_conflicts.md C1, C2). -/
  | u
  /-- Overflow, bit 6 (R23). -/
  | v
  /-- Negative, bit 7 (R24). -/
  | n
deriving DecidableEq, Repr

/-- One value of the two input ports (30_encoding.md R40; 00_scope.md section 7, "Request"). -/
structure Request where
  req : ReqWord
  wdata : Word
deriving DecidableEq, Repr

/-- The 31 requests, one constructor per row of spec/opcode_table.json. A WR request carries the whole write operand port
`wdata` (which of its bits the request reads is its meaning, R46); a SET request carries `VAL`, `req[3]`. -/
inductive Instr where
  | por
  | res
  | nop
  | rdA
  | rdX
  | rdY
  | rdSP
  | rdPC
  | rdP
  | wrA (wdata : Word)
  | wrX (wdata : Word)
  | wrY (wdata : Word)
  | wrSP (wdata : Word)
  | wrPC (wdata : Word)
  | wrP (wdata : Word)
  | getC
  | getZ
  | getI
  | getD
  | getB
  | getU
  | getV
  | getN
  | setC (val : Bool)
  | setZ (val : Bool)
  | setI (val : Bool)
  | setD (val : Bool)
  | setB (val : Bool)
  | setU (val : Bool)
  | setV (val : Bool)
  | setN (val : Bool)
deriving DecidableEq, Repr

/-- Why a request word is reserved: the rows of the table of 30_encoding.md R45. The block itself records no reason
(60_exceptions.md R101); the names are the decoder's (log entry 6). -/
inductive Reserved where
  /-- `CMD` 0x01 to 0x0F: `OP` 0 with `VAL` or `SEL` not 0. -/
  | nopWithFields
  /-- `CMD` 0x16, 0x17: RD of register number 6 or 7. -/
  | rdNoSuchRegister
  /-- `CMD` 0x18 to 0x1F: RD with `VAL` = 1. -/
  | rdWithVal
  /-- `CMD` 0x26, 0x27: WR of register number 6 or 7. -/
  | wrNoSuchRegister
  /-- `CMD` 0x28 to 0x2F: WR with `VAL` = 1. -/
  | wrWithVal
  /-- `CMD` 0x38 to 0x3F: GET with `VAL` = 1. -/
  | getWithVal
  /-- `CMD` 0x50 to 0xFF: `OP` 5 to 15. -/
  | opReserved
deriving DecidableEq, Repr

/-- What the decoder answers: a request of the table, or the word's rejection by name (R45). -/
inductive Decoded where
  | instr (i : Instr)
  | reserved (why : Reserved)
deriving DecidableEq, Repr

/-- One line of an assembler program, operands as the numbers written (30_encoding.md R48), pseudo-requests included (R49). -/
inductive Line where
  | por
  | res
  | nop
  | rd (r : Reg)
  | wr (r : Reg) (value : Nat)
  | get (f : Flag)
  | set (f : Flag) (v : Nat)
  /-- Pseudo-request `GETP`. -/
  | getp
  /-- Pseudo-request `SETP value`. -/
  | setp (value : Nat)
  /-- Pseudo-request `SE.f`. -/
  | se (f : Flag)
  /-- Pseudo-request `CL.f`. -/
  | cl (f : Flag)
  /-- Pseudo-request `IDLE`. -/
  | idle
deriving DecidableEq, Repr

end Sys2Proof
end

