-- ==== Sys2Proof/Decode.lean ====
section
/-! DEFINITION. The request word's fields, the decoder, the encoder and the opcode table's rows (30_encoding.md R41 to
R46 and section 4). Every code value is the spec's own (92_eei_decisions.md D3, D4, D5, D20). -/

namespace Sys2Proof

/-! ## Fields of the request word (R41) -/

/-- `POR` = `req[9]`. -/
def porBit (w : ReqWord) : Bool := w.getLsbD 9
/-- `RES` = `req[8]`. -/
def resBit (w : ReqWord) : Bool := w.getLsbD 8
/-- `CMD` = `req[7:0]`. -/
def cmdField (w : ReqWord) : BitVec 8 := w.extractLsb' 0 8
/-- `OP` = `req[7:4]`. -/
def opField (w : ReqWord) : BitVec 4 := w.extractLsb' 4 4
/-- `VAL` = `req[3]`. -/
def valField (w : ReqWord) : Bool := w.getLsbD 3
/-- `SEL` = `req[2:0]`. -/
def selField (w : ReqWord) : BitVec 3 := w.extractLsb' 0 3

/-! ## Select numbers (R42, R43) -/

/-- The register of a select number; 6 and 7 name none (R42). -/
def regOfSel (sel : BitVec 3) : Option Reg :=
  match sel.toNat with
  | 0 => some .a
  | 1 => some .x
  | 2 => some .y
  | 3 => some .sp
  | 4 => some .pc
  | 5 => some .p
  | _ => none

/-- The flag of a select number: its bit position in P; all eight are legal (R43). -/
def flagOfSel (sel : BitVec 3) : Flag :=
  match sel.toNat with
  | 0 => .c
  | 1 => .z
  | 2 => .i
  | 3 => .d
  | 4 => .b
  | 5 => .u
  | 6 => .v
  | _ => .n

/-! ## The request of an operation class and a register or flag -/

/-- `RD.r`. -/
def Instr.rdOf : Reg → Instr
  | .a => .rdA
  | .x => .rdX
  | .y => .rdY
  | .sp => .rdSP
  | .pc => .rdPC
  | .p => .rdP

/-- `WR.r` with the write operand port `wdata`. -/
def Instr.wrOf (r : Reg) (wdata : Word) : Instr :=
  match r with
  | .a => .wrA wdata
  | .x => .wrX wdata
  | .y => .wrY wdata
  | .sp => .wrSP wdata
  | .pc => .wrPC wdata
  | .p => .wrP wdata

/-- `GET.f`. -/
def Instr.getOf : Flag → Instr
  | .c => .getC
  | .z => .getZ
  | .i => .getI
  | .d => .getD
  | .b => .getB
  | .u => .getU
  | .v => .getV
  | .n => .getN

/-- `SET.f val`. -/
def Instr.setOf (f : Flag) (val : Bool) : Instr :=
  match f with
  | .c => .setC val
  | .z => .setZ val
  | .i => .setI val
  | .d => .setD val
  | .b => .setB val
  | .u => .setU val
  | .v => .setV val
  | .n => .setN val

/-! ## The decoder (R41, R44, R45) -/

/-- The command `CMD`, decoded when neither POR nor RES is presented: one of the 37 command values or reserved (R45). -/
def decodeCmd (w : ReqWord) (wdata : Word) : Decoded :=
  match (opField w).toNat with
  | 0 => if valField w || selField w != 0 then .reserved .nopWithFields else .instr .nop
  | 1 =>
    if valField w then .reserved .rdWithVal
    else match regOfSel (selField w) with
      | some r => .instr (.rdOf r)
      | none => .reserved .rdNoSuchRegister
  | 2 =>
    if valField w then .reserved .wrWithVal
    else match regOfSel (selField w) with
      | some r => .instr (.wrOf r wdata)
      | none => .reserved .wrNoSuchRegister
  | 3 => if valField w then .reserved .getWithVal else .instr (.getOf (flagOfSel (selField w)))
  | 4 => .instr (.setOf (flagOfSel (selField w)) (valField w))
  | _ => .reserved .opReserved

/-- Decode priority: POR, then RES, then the command; only the first present is performed (R44; 60_exceptions.md R103). -/
def decode : Request → Decoded
  | ⟨req, wdata⟩ =>
    if porBit req then .instr .por
    else if resBit req then .instr .res
    else decodeCmd req wdata

/-! ## The encoder: canonical words (section 4), ignored bits and unused `wdata` 0 (R48) -/

/-- The canonical request of an instruction: the column "canonical" of 30_encoding.md section 4. -/
def encode : Instr → Request
  | .por => ⟨0x200, 0⟩
  | .res => ⟨0x100, 0⟩
  | .nop => ⟨0x000, 0⟩
  | .rdA => ⟨0x010, 0⟩
  | .rdX => ⟨0x011, 0⟩
  | .rdY => ⟨0x012, 0⟩
  | .rdSP => ⟨0x013, 0⟩
  | .rdPC => ⟨0x014, 0⟩
  | .rdP => ⟨0x015, 0⟩
  | .wrA wdata => ⟨0x020, wdata⟩
  | .wrX wdata => ⟨0x021, wdata⟩
  | .wrY wdata => ⟨0x022, wdata⟩
  | .wrSP wdata => ⟨0x023, wdata⟩
  | .wrPC wdata => ⟨0x024, wdata⟩
  | .wrP wdata => ⟨0x025, wdata⟩
  | .getC => ⟨0x030, 0⟩
  | .getZ => ⟨0x031, 0⟩
  | .getI => ⟨0x032, 0⟩
  | .getD => ⟨0x033, 0⟩
  | .getB => ⟨0x034, 0⟩
  | .getU => ⟨0x035, 0⟩
  | .getV => ⟨0x036, 0⟩
  | .getN => ⟨0x037, 0⟩
  | .setC val => ⟨if val then 0x048 else 0x040, 0⟩
  | .setZ val => ⟨if val then 0x049 else 0x041, 0⟩
  | .setI val => ⟨if val then 0x04A else 0x042, 0⟩
  | .setD val => ⟨if val then 0x04B else 0x043, 0⟩
  | .setB val => ⟨if val then 0x04C else 0x044, 0⟩
  | .setU val => ⟨if val then 0x04D else 0x045, 0⟩
  | .setV val => ⟨if val then 0x04E else 0x046, 0⟩
  | .setN val => ⟨if val then 0x04F else 0x047, 0⟩

/-! ## The rows of spec/opcode_table.json, as the table writes them -/

/-- One row's `match` and `mask` over the 10-bit word: `w` selects the row when `w & mask == match` (section 4). -/
structure Row where
  value : ReqWord
  mask : ReqWord
deriving DecidableEq, Repr

/-- `w & mask == match`. -/
def Row.selects (row : Row) (w : ReqWord) : Bool := w &&& row.mask == row.value

/-- The row of an instruction, copied from spec/opcode_table.json; nothing of the decoder or the encoder uses it. -/
def Instr.row : Instr → Row
  | .por => ⟨0x200, 0x200⟩
  | .res => ⟨0x100, 0x300⟩
  | .nop => ⟨0x000, 0x3FF⟩
  | .rdA => ⟨0x010, 0x3FF⟩
  | .rdX => ⟨0x011, 0x3FF⟩
  | .rdY => ⟨0x012, 0x3FF⟩
  | .rdSP => ⟨0x013, 0x3FF⟩
  | .rdPC => ⟨0x014, 0x3FF⟩
  | .rdP => ⟨0x015, 0x3FF⟩
  | .wrA _ => ⟨0x020, 0x3FF⟩
  | .wrX _ => ⟨0x021, 0x3FF⟩
  | .wrY _ => ⟨0x022, 0x3FF⟩
  | .wrSP _ => ⟨0x023, 0x3FF⟩
  | .wrPC _ => ⟨0x024, 0x3FF⟩
  | .wrP _ => ⟨0x025, 0x3FF⟩
  | .getC => ⟨0x030, 0x3FF⟩
  | .getZ => ⟨0x031, 0x3FF⟩
  | .getI => ⟨0x032, 0x3FF⟩
  | .getD => ⟨0x033, 0x3FF⟩
  | .getB => ⟨0x034, 0x3FF⟩
  | .getU => ⟨0x035, 0x3FF⟩
  | .getV => ⟨0x036, 0x3FF⟩
  | .getN => ⟨0x037, 0x3FF⟩
  | .setC _ => ⟨0x040, 0x3F7⟩
  | .setZ _ => ⟨0x041, 0x3F7⟩
  | .setI _ => ⟨0x042, 0x3F7⟩
  | .setD _ => ⟨0x043, 0x3F7⟩
  | .setB _ => ⟨0x044, 0x3F7⟩
  | .setU _ => ⟨0x045, 0x3F7⟩
  | .setV _ => ⟨0x046, 0x3F7⟩
  | .setN _ => ⟨0x047, 0x3F7⟩

/-- The write operand an instruction carries, if its request has one on `wdata` (R46). -/
def Instr.writeOperand? : Instr → Option Word
  | .wrA wdata => some wdata
  | .wrX wdata => some wdata
  | .wrY wdata => some wdata
  | .wrSP wdata => some wdata
  | .wrPC wdata => some wdata
  | .wrP wdata => some wdata
  | .por => none
  | .res => none
  | .nop => none
  | .rdA => none
  | .rdX => none
  | .rdY => none
  | .rdSP => none
  | .rdPC => none
  | .rdP => none
  | .getC => none
  | .getZ => none
  | .getI => none
  | .getD => none
  | .getB => none
  | .getU => none
  | .getV => none
  | .getN => none
  | .setC _ => none
  | .setZ _ => none
  | .setI _ => none
  | .setD _ => none
  | .setB _ => none
  | .setU _ => none
  | .setV _ => none
  | .setN _ => none

/-- The bit an instruction carries, if its request has one in `VAL` (R46). -/
def Instr.valOperand? : Instr → Option Bool
  | .setC val => some val
  | .setZ val => some val
  | .setI val => some val
  | .setD val => some val
  | .setB val => some val
  | .setU val => some val
  | .setV val => some val
  | .setN val => some val
  | .por => none
  | .res => none
  | .nop => none
  | .rdA => none
  | .rdX => none
  | .rdY => none
  | .rdSP => none
  | .rdPC => none
  | .rdP => none
  | .wrA _ => none
  | .wrX _ => none
  | .wrY _ => none
  | .wrSP _ => none
  | .wrPC _ => none
  | .wrP _ => none
  | .getC => none
  | .getZ => none
  | .getI => none
  | .getD => none
  | .getB => none
  | .getU => none
  | .getV => none
  | .getN => none

/-! ## The host's numbering of the table's words (log entry 8) -/

/-- The request whose word is the number `w` of `nbits` bits, `wdata` 0; a number of more than the ten bits of `req` is no
request. -/
def requestOfTable (nbits w : Nat) : Option Request :=
  if w % 2 ^ nbits < 2 ^ 10 then some ⟨BitVec.ofNat 10 (w % 2 ^ nbits), 0⟩ else none

/-- The instruction the decoder reads from the request word numbered `w`, and none where the word is reserved. -/
def decodeTableWord (nbits w : Nat) : Option Instr :=
  match requestOfTable nbits w with
  | none => none
  | some r =>
    match decode r with
    | .instr i => some i
    | .reserved _ => none

end Sys2Proof
end

