-- ==== Sys2Proof/Machine/Flags.lean ====
section
/-! DEFINITION. The named bits of the status word: position, mask, read, read-modify-write (41_status_flags.md). No request
computes a flag from a result (10_state.md R29), so there is no flag computation. -/

namespace Sys2Proof.Machine

/-- `pos(f)`, the table of 41_status_flags.md. -/
def flagPos : Flag → Nat
  | .c => 0
  | .z => 1
  | .i => 2
  | .d => 3
  | .b => 4
  | .u => 5
  | .v => 6
  | .n => 7

/-- `mask(f)` = `1 << pos(f)`. -/
def flagMask (f : Flag) : Byte := 1#8 <<< flagPos f

/-- `P[pos(f)]` (R70 to R77): the stored bit, nothing forced (10_state.md R25). -/
def getFlag (f : Flag) (p : Byte) : Bool := p.getLsbD (flagPos f)

/-- `(P & ~mask(f)) | (VAL << pos(f))` (R78 to R85). -/
def setFlag (f : Flag) (val : Bool) (p : Byte) : Byte :=
  (p &&& ~~~flagMask f) ||| ((BitVec.ofBool val).setWidth 8 <<< flagPos f)

end Sys2Proof.Machine
end

