-- ==== Sys2Proof/Machine/Operands.lean ====
section
/-! DEFINITION. Operand and result assembly on the ports (30_encoding.md R46; 92_eei_decisions.md D9). -/

namespace Sys2Proof.Machine

/-- The operand of a WR request to an 8-bit register: `wdata[7:0]`; `wdata[15:8]` is ignored (R46). -/
def byteOperand (wdata : Word) : Byte := wdata.extractLsb' 0 8

/-- The operand of WR.PC: all 16 bits of `wdata` (R46). -/
def wordOperand (wdata : Word) : Word := wdata

/-- `zext_16` of an 8-bit register (R46). -/
def byteResult (v : Byte) : Word := v.setWidth 16

/-- `zext_16` of one bit: 0x0000 or 0x0001 (R46, R47). -/
def bitResult (b : Bool) : Word := (BitVec.ofBool b).setWidth 16

end Sys2Proof.Machine
end

