-- ==== Sys2Proof/Config.lean ====
section
/-! DEFINITION. The named constants of 00_scope.md section 4 and the one parameter the spec leaves open. -/

namespace Sys2Proof.Config

/-- `DEFAULT_A` (00_scope.md section 4; 10_state.md R11). -/
def defaultA : Byte := 0x00
/-- `DEFAULT_X` (00_scope.md section 4; 10_state.md R12). -/
def defaultX : Byte := 0x00
/-- `DEFAULT_Y` (00_scope.md section 4; 10_state.md R13). -/
def defaultY : Byte := 0x00
/-- `DEFAULT_SP` (00_scope.md section 4; 10_state.md R14). -/
def defaultSP : Byte := 0xFD
/-- `DEFAULT_PC` (00_scope.md section 4; 10_state.md R15). -/
def defaultPC : Word := 0xFFFC
/-- `DEFAULT_P` (00_scope.md section 4; 10_state.md R16). -/
def defaultP : Byte := 0x24

/-- `RESET_VECTOR_ADDR`: the address itself, which nothing in the block reads (20_memory.md R31; 90_conflicts.md C3). -/
def resetVectorAddr : Word := 0xFFFC
/-- `RESET_SP_DECREMENT` (00_scope.md section 4; 42_reset_ops.md R91). -/
def resetSpDecrement : Byte := 3

/-- The two byte orders in which a host could read the 16-bit reset vector (92_eei_decisions.md D13). -/
inductive ByteOrder where
  | little
  | big
deriving DecidableEq, Repr, Inhabited

/-- `VECTOR_BYTE_ORDER`, the spec's one OPEN parameter (92_eei_decisions.md D13; 20_memory.md R32). It has no body: no
rule of the block reads it, so no definition of the model does, and nothing can be proved of its value. Safe (log entry 5). -/
opaque vectorByteOrder : ByteOrder

end Sys2Proof.Config
end

