-- ==== Sys2Proof/Machine/State.lean ====
section
/-! DEFINITION. The state of the block and of the host's side of its ports, the reasons a step can stop, and the state
after reset (10_state.md; 00_scope.md section 6.5). -/

namespace Sys2Proof.Machine

/-- The three output ports in one step (30_encoding.md R40, R47). -/
structure Output where
  rdata : Word
  rvalid : Bool
  err : Bool
deriving DecidableEq, Repr

/-- The architectural state of the block and nothing else: six registers, 56 bits (10_state.md R10, R27). -/
structure Registers where
  a : Byte
  x : Byte
  y : Byte
  sp : Byte
  pc : Word
  p : Byte
deriving DecidableEq, Repr

/-- The block's six registers (R10), and the two sides of a run that 00_scope.md section 6.5 gives: the requests still to
be presented and the outputs driven so far. The last two fields are the MODEL's own, no state of the block (R27; log
entries 1 and 3). -/
structure State where
  /-- A, the accumulator (R11). -/
  a : Byte
  /-- X, the first index register (R12). -/
  x : Byte
  /-- Y, the second index register (R13). -/
  y : Byte
  /-- SP, the stack pointer (R14). -/
  sp : Byte
  /-- PC, the program counter (R15). -/
  pc : Word
  /-- P, the status word, one cell (R16, R25). -/
  p : Byte
  /-- The requests the host will present, the next one first. DESIGN CHOICE, log entry 1. -/
  inputs : List Request
  /-- The outputs of the steps performed so far, the latest first. DESIGN CHOICE, log entry 3. -/
  outputs : List Output
deriving DecidableEq, Repr

/-- The block's own part of a state. -/
def State.registers (s : State) : Registers := ⟨s.a, s.x, s.y, s.sp, s.pc, s.p⟩

/-- Why a step stops. No request faults (60_exceptions.md R100), so no meaning answers one of these. -/
inductive Fault where
  /-- Raised by `step` alone, when the host has no request left to present: the run has ended, and the spec gives no step
  without a request (00_scope.md R1, section 6.5). Safe. DESIGN CHOICE, log entry 2. -/
  | endOfRun
deriving DecidableEq, Repr

/-- Why an instruction has no meaning. -/
inductive Refusal where
  /-- For an arm of `exec` whose instruction is not modelled yet; no arm answers it: all 31 requests have their meaning. Safe. -/
  | notModelled (mnemonic : String)
deriving DecidableEq, Repr

/-- The state in which every run begins: every register at its default (10_state.md R28; 70_reset_and_hazards.md R110), no
request presented yet and no output driven yet. -/
def State.reset : State where
  a := Config.defaultA
  x := Config.defaultX
  y := Config.defaultY
  sp := Config.defaultSP
  pc := Config.defaultPC
  p := Config.defaultP
  inputs := []
  outputs := []

end Sys2Proof.Machine
end

