-- ==== Sys2Proof/Machine/Ops.lean ====
section
/-! DEFINITION. The named operations every meaning is made of: register access, driving the outputs, presenting a request,
the reset event and the one error outcome. The block has no memory, so there is no operation on one (20_memory.md R30). -/

namespace Sys2Proof.Machine

/-! ## One update per field -/

/-- `A <- v`. -/
def State.setA (s : State) (v : Byte) : State := { s with a := v }
/-- `X <- v`. -/
def State.setX (s : State) (v : Byte) : State := { s with x := v }
/-- `Y <- v`. -/
def State.setY (s : State) (v : Byte) : State := { s with y := v }
/-- `SP <- v`. -/
def State.setSP (s : State) (v : Byte) : State := { s with sp := v }
/-- `PC <- v`. -/
def State.setPC (s : State) (v : Word) : State := { s with pc := v }
/-- `P <- v`, all eight bits at once (20_memory.md R35). -/
def State.setP (s : State) (v : Byte) : State := { s with p := v }
/-- The host's list of requests still to be presented: how a program is loaded (30_encoding.md R48; log entry 1). -/
def State.setInputs (s : State) (rs : List Request) : State := { s with inputs := rs }
/-- Drive the output ports for the step being performed (R47): one entry on the run's record (log entry 3). -/
def State.drive (s : State) (o : Output) : State := { s with outputs := o :: s.outputs }

/-! ## Register access by name (R42, R46) -/

/-- `zext_16(x[r])`: what an RD of register `r` returns (R47; 40_register_access.md R51 to R56). -/
def readReg (r : Reg) (s : State) : Word :=
  match r with
  | .a => byteResult s.a
  | .x => byteResult s.x
  | .y => byteResult s.y
  | .sp => byteResult s.sp
  | .pc => s.pc
  | .p => byteResult s.p

/-- What a WR of register `r` with the port value `wdata` assigns (R57 to R62): every value is accepted. -/
def writeReg (r : Reg) (wdata : Word) (s : State) : State :=
  match r with
  | .a => s.setA (byteOperand wdata)
  | .x => s.setX (byteOperand wdata)
  | .y => s.setY (byteOperand wdata)
  | .sp => s.setSP (byteOperand wdata)
  | .pc => s.setPC (wordOperand wdata)
  | .p => s.setP (byteOperand wdata)

/-! ## The outputs of a step (R47) -/

/-- POR, RES, NOP, WR and SET: all outputs 0. -/
def Output.silent : Output := ⟨0, false, false⟩
/-- RD and GET: `rdata` is the result, `rvalid` is 1, `err` is 0. -/
def Output.result (v : Word) : Output := ⟨v, true, false⟩
/-- A reserved request: `err` is 1, the others 0. -/
def Output.error : Output := ⟨0, false, true⟩

/-- End the step of a request that returns nothing. -/
def finish (s : State) : Host.Outcome State Fault Refusal := .next (s.drive .silent)

/-- End the step of a request that returns `v`; no register changes (20_memory.md R34). -/
def answer (v : Word) (s : State) : Host.Outcome State Fault Refusal := .next (s.drive (.result v))

/-! ## The status word's bits (41_status_flags.md) -/

/-- The result of GET.f. -/
def readFlag (f : Flag) (s : State) : Word := bitResult (getFlag f s.p)

/-- SET.f: one read-modify-write of P (20_memory.md R35). -/
def writeFlag (f : Flag) (val : Bool) (s : State) : State := s.setP (setFlag f val s.p)

/-! ## Events -/

/-- Power-on: all six registers take their defaults, whatever the state was; no RES is included (42_reset_ops.md R90; R111). -/
def powerOn (s : State) : State :=
  (((((s.setA Config.defaultA).setX Config.defaultX).setY Config.defaultY).setSP Config.defaultSP).setPC
    Config.defaultPC).setP Config.defaultP

/-- Taking the reset event, the block's one trap-like event (R91; 60_exceptions.md R104). It saves nothing: SP drops by 3
modulo 256, PC takes the vector's address, P[2] is set. There is no return from it (R105), so no operation stands beside it. -/
def takeReset (s : State) : State :=
  ((s.setSP (s.sp - Config.resetSpDecrement)).setPC Config.resetVectorAddr).setP (s.p ||| 0x04)

/-- Taking `ReservedRequest`, the one error outcome (60_exceptions.md R101): no register is assigned, nothing is saved, `err`
is driven 1 and the next step is decoded normally. The record of the run keeps the output (93_implementation_defined.md
U1; log entry 4). -/
def raiseReserved (s : State) : Host.Outcome State Fault Refusal := .next (s.drive .error)

/-! ## Presenting a request -/

/-- The request the host presents next, and the state with that request taken from the list; none at the end of the run. -/
def fetch (s : State) : Option (Request × State) :=
  match s.inputs with
  | [] => none
  | r :: rest => some (r, s.setInputs rest)

/-- Place a request before all others in the host's list, or an empty list where the number is no request. -/
def placeTableWord (nbits w : Nat) (s : State) : State :=
  match requestOfTable nbits w with
  | some r => s.setInputs (r :: s.inputs)
  | none => s.setInputs []

end Sys2Proof.Machine
end

