-- ==== Sys2Proof/Machine/RegisterAccess.lean ====
section
/-! DEFINITION. NOP, RD and WR: the 13 requests of 40_register_access.md. -/

namespace Sys2Proof.Machine

/-- NOP (R50). -/
def execNop (s : State) : Host.Outcome State Fault Refusal := finish s

/-- RD.A (R51). -/
def execRdA (s : State) : Host.Outcome State Fault Refusal := answer (readReg .a s) s
/-- RD.X (R52). -/
def execRdX (s : State) : Host.Outcome State Fault Refusal := answer (readReg .x s) s
/-- RD.Y (R53). -/
def execRdY (s : State) : Host.Outcome State Fault Refusal := answer (readReg .y s) s
/-- RD.SP (R54): the read does not pop. -/
def execRdSP (s : State) : Host.Outcome State Fault Refusal := answer (readReg .sp s) s
/-- RD.PC (R55): all 16 bits; PC does not advance and nothing is fetched. -/
def execRdPC (s : State) : Host.Outcome State Fault Refusal := answer (readReg .pc s) s
/-- RD.P (R56): the eight bits as stored. -/
def execRdP (s : State) : Host.Outcome State Fault Refusal := answer (readReg .p s) s

/-- WR.A (R57): no flag is touched (10_state.md R29). -/
def execWrA (wdata : Word) (s : State) : Host.Outcome State Fault Refusal := finish (writeReg .a wdata s)
/-- WR.X (R58). -/
def execWrX (wdata : Word) (s : State) : Host.Outcome State Fault Refusal := finish (writeReg .x wdata s)
/-- WR.Y (R59). -/
def execWrY (wdata : Word) (s : State) : Host.Outcome State Fault Refusal := finish (writeReg .y wdata s)
/-- WR.SP (R60): nothing is pushed. -/
def execWrSP (wdata : Word) (s : State) : Host.Outcome State Fault Refusal := finish (writeReg .sp wdata s)
/-- WR.PC (R61): an assignment of 16 bits, with no alignment check. -/
def execWrPC (wdata : Word) (s : State) : Host.Outcome State Fault Refusal := finish (writeReg .pc wdata s)
/-- WR.P (R62): no bit is masked, forced or preserved. -/
def execWrP (wdata : Word) (s : State) : Host.Outcome State Fault Refusal := finish (writeReg .p wdata s)

end Sys2Proof.Machine
end

