-- ==== Sys2Proof/Machine/ResetOps.lean ====
section
/-! DEFINITION. POR and RES: the two requests of 42_reset_ops.md. -/

namespace Sys2Proof.Machine

/-- POR (R90): the state of a run's start, all outputs 0. -/
def execPor (s : State) : Host.Outcome State Fault Refusal := finish (powerOn s)

/-- RES (R91): the reset event, which is not a power-on (R94). -/
def execRes (s : State) : Host.Outcome State Fault Refusal := finish (takeReset s)

end Sys2Proof.Machine
end

