-- ==== Sys2Proof/Machine/StatusFlags.lean ====
section
/-! DEFINITION. GET and SET of the eight bits of the status word: the 16 requests of 41_status_flags.md. -/

namespace Sys2Proof.Machine

/-- GET.C (R70). -/
def execGetC (s : State) : Host.Outcome State Fault Refusal := answer (readFlag .c s) s
/-- GET.Z (R71). -/
def execGetZ (s : State) : Host.Outcome State Fault Refusal := answer (readFlag .z s) s
/-- GET.I (R72). -/
def execGetI (s : State) : Host.Outcome State Fault Refusal := answer (readFlag .i s) s
/-- GET.D (R73). -/
def execGetD (s : State) : Host.Outcome State Fault Refusal := answer (readFlag .d s) s
/-- GET.B (R74). -/
def execGetB (s : State) : Host.Outcome State Fault Refusal := answer (readFlag .b s) s
/-- GET.U (R75). -/
def execGetU (s : State) : Host.Outcome State Fault Refusal := answer (readFlag .u s) s
/-- GET.V (R76). -/
def execGetV (s : State) : Host.Outcome State Fault Refusal := answer (readFlag .v s) s
/-- GET.N (R77). -/
def execGetN (s : State) : Host.Outcome State Fault Refusal := answer (readFlag .n s) s

/-- SET.C (R78). -/
def execSetC (val : Bool) (s : State) : Host.Outcome State Fault Refusal := finish (writeFlag .c val s)
/-- SET.Z (R79). -/
def execSetZ (val : Bool) (s : State) : Host.Outcome State Fault Refusal := finish (writeFlag .z val s)
/-- SET.I (R80). -/
def execSetI (val : Bool) (s : State) : Host.Outcome State Fault Refusal := finish (writeFlag .i val s)
/-- SET.D (R81). -/
def execSetD (val : Bool) (s : State) : Host.Outcome State Fault Refusal := finish (writeFlag .d val s)
/-- SET.B (R82). -/
def execSetB (val : Bool) (s : State) : Host.Outcome State Fault Refusal := finish (writeFlag .b val s)
/-- SET.U (R83). -/
def execSetU (val : Bool) (s : State) : Host.Outcome State Fault Refusal := finish (writeFlag .u val s)
/-- SET.V (R84). -/
def execSetV (val : Bool) (s : State) : Host.Outcome State Fault Refusal := finish (writeFlag .v val s)
/-- SET.N (R85). -/
def execSetN (val : Bool) (s : State) : Host.Outcome State Fault Refusal := finish (writeFlag .n val s)

end Sys2Proof.Machine
end

