-- ==== Sys2Proof/Machine/Dispatch.lean ====
section
/-! DEFINITION. One arm per row of spec/opcode_table.json. -/

namespace Sys2Proof.Machine

def exec (i : Instr) (s : State) : Host.Outcome State Fault Refusal :=
  match i with
  | .por => Sys2Proof.Machine.execPor s
  | .res => Sys2Proof.Machine.execRes s
  | .nop => Sys2Proof.Machine.execNop s
  | .rdA => Sys2Proof.Machine.execRdA s
  | .rdX => Sys2Proof.Machine.execRdX s
  | .rdY => Sys2Proof.Machine.execRdY s
  | .rdSP => Sys2Proof.Machine.execRdSP s
  | .rdPC => Sys2Proof.Machine.execRdPC s
  | .rdP => Sys2Proof.Machine.execRdP s
  | .wrA wdata => Sys2Proof.Machine.execWrA wdata s
  | .wrX wdata => Sys2Proof.Machine.execWrX wdata s
  | .wrY wdata => Sys2Proof.Machine.execWrY wdata s
  | .wrSP wdata => Sys2Proof.Machine.execWrSP wdata s
  | .wrPC wdata => Sys2Proof.Machine.execWrPC wdata s
  | .wrP wdata => Sys2Proof.Machine.execWrP wdata s
  | .getC => Sys2Proof.Machine.execGetC s
  | .getZ => Sys2Proof.Machine.execGetZ s
  | .getI => Sys2Proof.Machine.execGetI s
  | .getD => Sys2Proof.Machine.execGetD s
  | .getB => Sys2Proof.Machine.execGetB s
  | .getU => Sys2Proof.Machine.execGetU s
  | .getV => Sys2Proof.Machine.execGetV s
  | .getN => Sys2Proof.Machine.execGetN s
  | .setC val => Sys2Proof.Machine.execSetC val s
  | .setZ val => Sys2Proof.Machine.execSetZ val s
  | .setI val => Sys2Proof.Machine.execSetI val s
  | .setD val => Sys2Proof.Machine.execSetD val s
  | .setB val => Sys2Proof.Machine.execSetB val s
  | .setU val => Sys2Proof.Machine.execSetU val s
  | .setV val => Sys2Proof.Machine.execSetV val s
  | .setN val => Sys2Proof.Machine.execSetN val s

end Sys2Proof.Machine
end

