-- ==== Sys2Proof/Machine/Perform.lean ====
section
/-! DEFINITION. What the block does with the request sampled on its ports. -/

namespace Sys2Proof.Machine

/-- Decode the request once and perform the one operation it names (30_encoding.md R44), or take the error of a reserved
word (60_exceptions.md R101). -/
def perform (r : Request) (s : State) : Host.Outcome State Fault Refusal :=
  match decode r with
  | .instr i => exec i s
  | .reserved _ => raiseReserved s

end Sys2Proof.Machine
end

