-- ==== Sys2Proof/Machine/Step.lean ====
section
/-! DEFINITION. One step of the block (00_scope.md R1, section 6.5), and where the host places a request. -/

namespace Sys2Proof.Machine

/-- The block performs the request the host presents (R1). With none left the run has ended (log entry 2). -/
def step (s : State) : Host.Outcome State Fault Refusal :=
  match fetch s with
  | none => .fault .endOfRun
  | some (r, s') => perform r s'

/-- `s` with the request word numbered `w` placed so that the very next step samples it (log entries 1 and 8). -/
def State.withFetchWord (s : State) (nbits w : Nat) : State := placeTableWord nbits w s

end Sys2Proof.Machine
end

