-- ==== Sys2Proof/WellFormed.lean ====
section
/-! DEFINITION. The checks the spec makes on a program text (30_encoding.md R48). A term of `Instr` needs no check: every
operand it can carry is one the request word or the `wdata` port admits, and the block performs each (R46, R100). -/

namespace Sys2Proof

/-- The width in bits of a register (00_scope.md section 4). -/
def Reg.width : Reg → Nat
  | .a => 8
  | .x => 8
  | .y => 8
  | .sp => 8
  | .pc => 16
  | .p => 8

/-- R48: "A value that does not fit the register is an assembly error, not a truncation"; the operand of SET is 0 or 1. -/
def Line.wellFormed : Line → Bool
  | .wr r value => decide (value < 2 ^ r.width)
  | .set _ v => decide (v < 2)
  | .setp value => decide (value < 2 ^ Reg.width .p)
  | .por => true
  | .res => true
  | .nop => true
  | .rd _ => true
  | .get _ => true
  | .getp => true
  | .se _ => true
  | .cl _ => true
  | .idle => true

end Sys2Proof
end

