-- ==== Sys2Proof/Machine/Assembler.lean ====
section
/-! DEFINITION. The assembler of 30_encoding.md R48 and the pseudo-requests of R49: from a program text to the requests
the host presents. -/

namespace Sys2Proof.Machine

/-! ## Lines to requests -/

/-- The one request of a line, pseudo-requests expanded (R49); the operand stands in the low bits of `wdata` or in `VAL` (R48). -/
def lineInstr : Line → Instr
  | .por => .por
  | .res => .res
  | .nop => .nop
  | .rd r => .rdOf r
  | .wr r value => .wrOf r (BitVec.ofNat 16 value)
  | .get f => .getOf f
  | .set f v => .setOf f (v == 1)
  | .getp => .rdP
  | .setp value => .wrP (BitVec.ofNat 16 value)
  | .se f => .setOf f true
  | .cl f => .setOf f false
  | .idle => .nop

/-- Assemble one line; a value that does not fit is an assembly error (R48). -/
def assemble (l : Line) : Option Request := if l.wellFormed then some (encode (lineInstr l)) else none

/-- Assemble a program: one request per line, in order (R48); one line in error is an error of the whole. -/
def assembleAll : List Line → Option (List Request)
  | [] => some []
  | l :: ls =>
    match assemble l, assembleAll ls with
    | some r, some rs => some (r :: rs)
    | _, _ => none

/-! ## Text to lines (R48, 00_scope.md section 6.1; what R48 leaves open of the text is log entry 7) -/

/-- The pieces of a text between the characters that `sep` holds of. -/
def splitAt (sep : Char → Bool) : List Char → List (List Char)
  | [] => [[]]
  | ch :: rest =>
    match splitAt sep rest with
    | [] => [[ch]]
    | piece :: pieces => if sep ch then [] :: piece :: pieces else (ch :: piece) :: pieces

/-- A space, a tab or a carriage return. -/
def isBlank (ch : Char) : Bool := ch == ' ' || ch == '\t' || ch == '\r'

/-- The value of a digit, hexadecimal letters in either case. -/
def digitValue (ch : Char) : Option Nat :=
  let n := ch.toNat
  if 48 ≤ n ∧ n ≤ 57 then some (n - 48)
  else if 65 ≤ n ∧ n ≤ 70 then some (n - 55)
  else if 97 ≤ n ∧ n ≤ 102 then some (n - 87)
  else none

/-- The digits of a numeral in a base, read from the left onto `acc`. -/
def digitsValue (base : Nat) : Nat → List Char → Option Nat
  | acc, [] => some acc
  | acc, ch :: rest =>
    match digitValue ch with
    | some d => if d < base then digitsValue base (acc * base + d) rest else none
    | none => none

/-- A numeral: "`0x` prefixes hexadecimal, `0b` binary; other numerals are decimal" (00_scope.md section 6.1). -/
def parseNumeral : List Char → Option Nat
  | [] => none
  | ch :: rest =>
    if ch == '0' then
      match rest with
      | 'x' :: d :: ds => digitsValue 16 0 (d :: ds)
      | 'b' :: d :: ds => digitsValue 2 0 (d :: ds)
      | _ => digitsValue 10 0 (ch :: rest)
    else digitsValue 10 0 (ch :: rest)

/-- A register's name in a mnemonic (R48). -/
def regName : Reg → List Char
  | .a => "A".toList
  | .x => "X".toList
  | .y => "Y".toList
  | .sp => "SP".toList
  | .pc => "PC".toList
  | .p => "P".toList

/-- A flag's letter in a mnemonic (R48). -/
def flagName : Flag → List Char
  | .c => "C".toList
  | .z => "Z".toList
  | .i => "I".toList
  | .d => "D".toList
  | .b => "B".toList
  | .u => "U".toList
  | .v => "V".toList
  | .n => "N".toList

/-- The six registers (30_encoding.md R42). -/
def allRegs : List Reg := [.a, .x, .y, .sp, .pc, .p]

/-- The eight flags (R43). -/
def allFlags : List Flag := [.c, .z, .i, .d, .b, .u, .v, .n]

/-- The mnemonics that take no operand (R48, R49). -/
def plainMnemonics : List (List Char × Line) :=
  [("POR".toList, .por), ("RES".toList, .res), ("NOP".toList, .nop), ("IDLE".toList, .idle), ("GETP".toList, .getp)]
    ++ allRegs.map (fun r => ("RD.".toList ++ regName r, .rd r))
    ++ allFlags.map (fun f => ("GET.".toList ++ flagName f, .get f))
    ++ allFlags.map (fun f => ("SE.".toList ++ flagName f, .se f))
    ++ allFlags.map (fun f => ("CL.".toList ++ flagName f, .cl f))

/-- The mnemonics that take one operand (R48, R49). -/
def operandMnemonics (value : Nat) : List (List Char × Line) :=
  [("SETP".toList, .setp value)]
    ++ allRegs.map (fun r => ("WR.".toList ++ regName r, .wr r value))
    ++ allFlags.map (fun f => ("SET.".toList ++ flagName f, .set f value))

/-- What one line of text says: a line, nothing (a comment alone, or blank), or an error. -/
inductive LineText where
  | line (l : Line)
  | empty
  | error
deriving DecidableEq, Repr

/-- Read one line of text: "`MNEMONIC` or `MNEMONIC operand`", a comment from `;` to the end (R48). -/
def parseLine (text : List Char) : LineText :=
  match (splitAt isBlank (text.takeWhile (fun ch => ch != ';'))).filter (fun w => !w.isEmpty) with
  | [] => .empty
  | [m] =>
    match plainMnemonics.lookup m with
    | some l => .line l
    | none => .error
  | [m, v] =>
    match parseNumeral v with
    | some value =>
      match (operandMnemonics value).lookup m with
      | some l => .line l
      | none => .error
    | none => .error
  | _ => .error

/-- Read the lines of a program text, in order. -/
def parseLines : List (List Char) → Option (List Line)
  | [] => some []
  | text :: rest =>
    match parseLine text, parseLines rest with
    | .line l, some ls => some (l :: ls)
    | .empty, some ls => some ls
    | _, _ => none

/-- From a program text to the requests the host presents (R48, R49). -/
def assembleText (text : String) : Option (List Request) :=
  match parseLines (splitAt (fun ch => ch == '\n') text.toList) with
  | some ls => assembleAll ls
  | none => none

end Sys2Proof.Machine
end

