-- ==== Sys2Proof/Safety.lean ====
section
/-! DEFINITION. The terms claims use: what a run shows, what counts as a safe run, which output values are legal, and the
spec's own lists of which request writes which register and what it returns. -/

namespace Sys2Proof.Machine

/-- The observation of a run: the outputs in the order they were driven, and the registers (00_scope.md section 6.5). -/
def State.observation (s : State) : List Output × Registers := (s.outputs.reverse, s.registers)

/-- Some step so far drove `err`: the fault that a model records for the whole run (93_implementation_defined.md U1). A claim
about a safe run takes `errRaised = false` as a premise. -/
def State.errRaised (s : State) : Bool := s.outputs.any Output.err

/-- An output some row of the table of 30_encoding.md R47 admits: `rdata` is 0 where `rvalid` is 0, and `err` excludes
`rvalid`. -/
def Output.legal (o : Output) : Bool := (o.rvalid || o.rdata == 0) && !(o.rvalid && o.err)

/-- Every output driven so far is legal. -/
def State.outputsLegal (s : State) : Bool := s.outputs.all Output.legal

/-- `n` steps of the block (a run is the fold of the step over the requests, 00_scope.md section 6.5). -/
def run (n : Nat) (s : State) : Host.Outcome State Fault Refusal := Host.Core.run Sys2Proof.core n s

end Sys2Proof.Machine

namespace Sys2Proof

/-- The writers of each register: "written by … and by nothing else" of 10_state.md R11 to R16. -/
def Instr.writes (i : Instr) (r : Reg) : Bool :=
  match i with
  | .por => true
  | .res => r == .sp || r == .pc || r == .p
  | .nop => false
  | .rdA => false
  | .rdX => false
  | .rdY => false
  | .rdSP => false
  | .rdPC => false
  | .rdP => false
  | .wrA _ => r == .a
  | .wrX _ => r == .x
  | .wrY _ => r == .y
  | .wrSP _ => r == .sp
  | .wrPC _ => r == .pc
  | .wrP _ => r == .p
  | .getC => false
  | .getZ => false
  | .getI => false
  | .getD => false
  | .getB => false
  | .getU => false
  | .getV => false
  | .getN => false
  | .setC _ => r == .p
  | .setZ _ => r == .p
  | .setI _ => r == .p
  | .setD _ => r == .p
  | .setB _ => r == .p
  | .setU _ => r == .p
  | .setV _ => r == .p
  | .setN _ => r == .p

/-- The table of 30_encoding.md R47: what a request returns on `rdata` with `rvalid` = 1, or none where it returns nothing. -/
def Instr.returns (i : Instr) (s : Machine.State) : Option Word :=
  match i with
  | .por => none
  | .res => none
  | .nop => none
  | .rdA => some (s.a.zeroExtend 16)
  | .rdX => some (s.x.zeroExtend 16)
  | .rdY => some (s.y.zeroExtend 16)
  | .rdSP => some (s.sp.zeroExtend 16)
  | .rdPC => some s.pc
  | .rdP => some (s.p.zeroExtend 16)
  | .wrA _ => none
  | .wrX _ => none
  | .wrY _ => none
  | .wrSP _ => none
  | .wrPC _ => none
  | .wrP _ => none
  | .getC => some (if s.p.getLsbD 0 then 1 else 0)
  | .getZ => some (if s.p.getLsbD 1 then 1 else 0)
  | .getI => some (if s.p.getLsbD 2 then 1 else 0)
  | .getD => some (if s.p.getLsbD 3 then 1 else 0)
  | .getB => some (if s.p.getLsbD 4 then 1 else 0)
  | .getU => some (if s.p.getLsbD 5 then 1 else 0)
  | .getV => some (if s.p.getLsbD 6 then 1 else 0)
  | .getN => some (if s.p.getLsbD 7 then 1 else 0)
  | .setC _ => none
  | .setZ _ => none
  | .setI _ => none
  | .setD _ => none
  | .setB _ => none
  | .setU _ => none
  | .setV _ => none
  | .setN _ => none

end Sys2Proof
end

