-- ==== Sys2Proof/Certificates/Slice0/Obligations.lean ====
section
/-! DEFINITION. The statements for the provers. Each docstring names the rule of spec/ it formalises. -/

open Sys2Proof Sys2Proof.Machine

/-! ## Decoding and encoding (30_encoding.md) -/

/-- 30_encoding.md section 4: the canonical word of every request, every operand at every value, decodes to that request. -/
def Obligations.DecodeOfEncodeIsTheRequest : Prop :=
  ∀ i : Instr, decode (encode i) = .instr i

/-- 30_encoding.md section 4: a word decodes to a request exactly when it selects that request's row of the opcode table and
the request carries the operand the word (`VAL`) and the port (`wdata`) hold; and no word selects two different rows. -/
def Obligations.DecodingFollowsTheOpcodeTable : Prop :=
  (∀ (r : Request) (i : Instr), decode r = .instr i ↔
    (r.req &&& i.row.mask = i.row.value ∧ (∀ w, i.writeOperand? = some w → w = r.wdata) ∧
      (∀ v, i.valOperand? = some v → v = r.req.getLsbD 3))) ∧
  (∀ (i j : Instr) (w : ReqWord), w &&& i.row.mask = i.row.value → w &&& j.row.mask = j.row.value → i.row = j.row)

/-- R45: the reserved words are exactly the seven ranges of its table (a word below 256 has `req[9:8]` = 0b00 and is its own
`CMD`); every other word is a request; a reserved one changes no register and drives `err` alone. -/
def Obligations.ReservedWordsAreThoseOfTheTable : Prop :=
  (∀ r : Request,
    (decode r = .reserved .nopWithFields ↔ 0x01 ≤ r.req.toNat ∧ r.req.toNat ≤ 0x0F) ∧
    (decode r = .reserved .rdNoSuchRegister ↔ 0x16 ≤ r.req.toNat ∧ r.req.toNat ≤ 0x17) ∧
    (decode r = .reserved .rdWithVal ↔ 0x18 ≤ r.req.toNat ∧ r.req.toNat ≤ 0x1F) ∧
    (decode r = .reserved .wrNoSuchRegister ↔ 0x26 ≤ r.req.toNat ∧ r.req.toNat ≤ 0x27) ∧
    (decode r = .reserved .wrWithVal ↔ 0x28 ≤ r.req.toNat ∧ r.req.toNat ≤ 0x2F) ∧
    (decode r = .reserved .getWithVal ↔ 0x38 ≤ r.req.toNat ∧ r.req.toNat ≤ 0x3F) ∧
    (decode r = .reserved .opReserved ↔ 0x50 ≤ r.req.toNat ∧ r.req.toNat ≤ 0xFF) ∧
    ((∃ i, decode r = .instr i) ∨ ∃ why, decode r = .reserved why)) ∧
  (∀ (s : State) (r : Request) (rest : List Request) (why : Reserved), s.inputs = r :: rest → decode r = .reserved why →
    step s = .next { s with inputs := rest, outputs := ⟨0, false, true⟩ :: s.outputs })

/-- R44: POR first, then RES, then the command; exactly one operation is performed, and a command presented with POR or RES
is dropped. -/
def Obligations.DecodePriorityIsPorThenResThenCommand : Prop :=
  ∀ (s : State) (r : Request) (rest : List Request), s.inputs = r :: rest →
    (r.req.getLsbD 9 = true → step s = exec .por { s with inputs := rest }) ∧
    (r.req.getLsbD 9 = false → r.req.getLsbD 8 = true → step s = exec .res { s with inputs := rest }) ∧
    (r.req.getLsbD 9 = false → r.req.getLsbD 8 = false →
      (∃ i, i ≠ .por ∧ i ≠ .res ∧ decode r = .instr i ∧ step s = exec i { s with inputs := rest }) ∨
      (∃ why, decode r = .reserved why ∧
        step s = .next { s with inputs := rest, outputs := ⟨0, false, true⟩ :: s.outputs }))

/-- 93_implementation_defined.md U3: two presented requests that differ only in bits their request ignores give the same
step: `req[8:0]` and `wdata` under POR, `req[7:0]` and `wdata` under RES, `wdata` where `OP` is not WR, `wdata[15:8]` except
for WR.PC. -/
def Obligations.IgnoredInputBitsChangeNothing : Prop :=
  ∀ (s : State) (rest : List Request) (r₁ r₂ : Request),
    ((r₁.req.getLsbD 9 = true ∧ r₂.req.getLsbD 9 = true) ∨
      (r₁.req.extractLsb' 8 2 = 1#2 ∧ r₂.req.extractLsb' 8 2 = 1#2) ∨
      (r₁.req = r₂.req ∧ r₁.req.extractLsb' 4 4 ≠ 2#4) ∨
      (r₁.req = r₂.req ∧ r₁.req ≠ 0x024#10 ∧ r₁.wdata.extractLsb' 0 8 = r₂.wdata.extractLsb' 0 8)) →
    step { s with inputs := r₁ :: rest } = step { s with inputs := r₂ :: rest }

/-- A few words of 95_test_vectors.md section 3.1, POR and RES with junk in the ignored bits and reserved words among them. -/
def Obligations.SpecWordsDecodeAsListed : Prop :=
  decode ⟨0x3FF, 0xFFFF⟩ = .instr .por ∧ decode ⟨0x225, 0x00FF⟩ = .instr .por ∧
  decode ⟨0x116, 0⟩ = .instr .res ∧ decode ⟨0x1FF, 0⟩ = .instr .res ∧
  decode ⟨0x000, 0⟩ = .instr .nop ∧ decode ⟨0x014, 0⟩ = .instr .rdPC ∧ decode ⟨0x015, 0⟩ = .instr .rdP ∧
  decode ⟨0x024, 0x1234⟩ = .instr (.wrPC 0x1234) ∧ decode ⟨0x020, 0x1277⟩ = .instr (.wrA 0x1277) ∧
  decode ⟨0x035, 0⟩ = .instr .getU ∧ decode ⟨0x04A, 0⟩ = .instr (.setI true) ∧ decode ⟨0x045, 0⟩ = .instr (.setU false) ∧
  decode ⟨0x02D, 0⟩ = .reserved .wrWithVal ∧ decode ⟨0x0FF, 0⟩ = .reserved .opReserved

/-- The word the host numbers as a table word is run by the very next step, whatever else the host has to present. The
numbering is the model's (log entry 8); that the next step runs it is 00_scope.md R1. -/
def Obligations.PlacedTableWordIsTheNextRequestRun : Prop :=
  ∀ (s : State) (nbits w : Nat) (i : Instr), decodeTableWord nbits w = some i → step (s.withFetchWord nbits w) = exec i s

/-! ## The step (00_scope.md, 60_exceptions.md) -/

/-- 00_scope.md section 6.5: where the request presented next decodes to `i`, the step is `exec i` at the state with that
request taken from the host's list. -/
def Obligations.StepRunsTheDecodedRequest : Prop :=
  ∀ (s : State) (r : Request) (rest : List Request) (i : Instr), s.inputs = r :: rest → decode r = .instr i →
    step s = exec i { s with inputs := rest }

/-- R100: each of the 31 requests, in any state and for any operand, answers a next state, drives one output with `err` = 0
and takes nothing from what the host has still to present. -/
def Obligations.EveryRequestCompletesWithoutError : Prop :=
  ∀ (i : Instr) (s : State), ∃ (t : State) (o : Output),
    exec i s = .next t ∧ t.inputs = s.inputs ∧ t.outputs = o :: s.outputs ∧ o.err = false

/-- R101: a reserved request changes no register and drives `err` = 1, `rvalid` = 0, `rdata` = 0; the run has then faulted
(`errRaised`); a request that is not reserved, presented next, is performed as from the state before; and in every step
whose request is not reserved, whatever went before, `err` is 0. -/
def Obligations.ReservedRequestChangesNoRegister : Prop :=
  (∀ (s : State) (r : Request) (rest : List Request) (why : Reserved), s.inputs = r :: rest → decode r = .reserved why →
    (∃ t, step s = .next t ∧ t.registers = s.registers ∧ t.inputs = rest ∧
      t.outputs = ⟨0, false, true⟩ :: s.outputs ∧ t.errRaised = true) ∧
    (∀ (r' : Request) (rest' : List Request) (i : Instr), rest = r' :: rest' → decode r' = .instr i →
      ∃ (t u : State) (o : Output), run 2 s = .next t ∧ exec i { s with inputs := rest' } = .next u ∧
        t.registers = u.registers ∧ t.outputs = o :: ⟨0, false, true⟩ :: s.outputs ∧
        u.outputs = o :: s.outputs ∧ o.err = false)) ∧
  (∀ (s : State) (r : Request) (rest : List Request) (i : Instr), s.inputs = r :: rest → decode r = .instr i →
    ∃ (t : State) (o : Output), step s = .next t ∧ t.outputs = o :: s.outputs ∧ o.err = false)

/-- The model's own choice (log entry 2): a step stops exactly where the host has no request left, with `endOfRun`; and,
with R100, no step is refused. -/
def Obligations.OnlyTheEndOfTheRunStops : Prop :=
  (∀ s : State, s.inputs = [] ↔ step s = .fault .endOfRun) ∧ (∀ (s : State) (m : Refusal), step s ≠ .refused m)

/-- 70_reset_and_hazards.md section 4: a run is a finite list of requests and always terminates, since every step completes;
each request presented drives one output. -/
def Obligations.EveryRunTerminates : Prop :=
  ∀ s : State, ∃ t : State, run s.inputs.length s = .next t ∧ t.inputs = [] ∧
    t.outputs.length = s.outputs.length + s.inputs.length

/-- R47: the outputs of a step are those its table gives for the request, from the registers before the step; and they depend
on nothing but the registers and the request. -/
def Obligations.OutputsOfAStepFollowTheTable : Prop :=
  (∀ (s : State) (r : Request) (rest : List Request), s.inputs = r :: rest →
    ∃ t, step s = .next t ∧
      (∀ i v, decode r = .instr i → i.returns s = some v → t.outputs = ⟨v, true, false⟩ :: s.outputs) ∧
      (∀ i, decode r = .instr i → i.returns s = none → t.outputs = ⟨0, false, false⟩ :: s.outputs) ∧
      (∀ why, decode r = .reserved why → t.outputs = ⟨0, false, true⟩ :: s.outputs)) ∧
  (∀ (s₁ s₂ t₁ t₂ : State), s₁.registers = s₂.registers → s₁.inputs.head? = s₂.inputs.head? →
    step s₁ = .next t₁ → step s₂ = .next t₂ →
    t₁.outputs.head? = t₂.outputs.head? ∧ t₁.registers = t₂.registers)

/-- 30_encoding.md R40, R47: every output driven is legal (`rdata` is 0 where `rvalid` is 0; `err` excludes `rvalid`), and
every step keeps that, from any state in which it holds. -/
def Obligations.EveryStepKeepsTheOutputsLegal : Prop :=
  ∀ s t : State, s.outputsLegal = true → step s = .next t → t.outputsLegal = true

/-- The state after reset meets the invariant of `EveryStepKeepsTheOutputsLegal`: no output has been driven (log entry 3). -/
def Obligations.ResetOutputsAreLegal : Prop := State.reset.outputsLegal = true

/-- 93_implementation_defined.md U1: the record of `err` grows by a reserved request and by nothing else, and is never
cleared. -/
def Obligations.ErrIsRecordedExactlyForReservedRequests : Prop :=
  ∀ (s t : State) (r : Request) (rest : List Request), s.inputs = r :: rest → step s = .next t →
    (t.errRaised = true ↔ (s.errRaised = true ∨ ∃ why, decode r = .reserved why))

/-! ## Register access (40_register_access.md) -/

/-- R51 to R56: RD returns the register zero-extended with `rvalid` = 1 and changes no register; `wdata` is ignored. -/
def Obligations.ReadsReturnTheRegisterZeroExtended : Prop :=
  (∀ w : Word, decode ⟨0x010, w⟩ = .instr .rdA ∧ decode ⟨0x011, w⟩ = .instr .rdX ∧ decode ⟨0x012, w⟩ = .instr .rdY ∧
    decode ⟨0x013, w⟩ = .instr .rdSP ∧ decode ⟨0x014, w⟩ = .instr .rdPC ∧ decode ⟨0x015, w⟩ = .instr .rdP) ∧
  (∀ s : State,
    exec .rdA s = .next { s with outputs := ⟨s.a.zeroExtend 16, true, false⟩ :: s.outputs } ∧
    exec .rdX s = .next { s with outputs := ⟨s.x.zeroExtend 16, true, false⟩ :: s.outputs } ∧
    exec .rdY s = .next { s with outputs := ⟨s.y.zeroExtend 16, true, false⟩ :: s.outputs } ∧
    exec .rdSP s = .next { s with outputs := ⟨s.sp.zeroExtend 16, true, false⟩ :: s.outputs } ∧
    exec .rdPC s = .next { s with outputs := ⟨s.pc, true, false⟩ :: s.outputs } ∧
    exec .rdP s = .next { s with outputs := ⟨s.p.zeroExtend 16, true, false⟩ :: s.outputs })

/-- R57 to R60, R62: a WR of an 8-bit register assigns `wdata[7:0]`, whatever `wdata[15:8]` holds, accepts every value and
changes nothing else: no flag for A, X, Y and SP, all eight bits for P. -/
def Obligations.ByteWritesAssignTheLowByte : Prop :=
  ∀ (w : Word) (s : State),
    (decode ⟨0x020, w⟩ = .instr (.wrA w) ∧ decode ⟨0x021, w⟩ = .instr (.wrX w) ∧ decode ⟨0x022, w⟩ = .instr (.wrY w) ∧
      decode ⟨0x023, w⟩ = .instr (.wrSP w) ∧ decode ⟨0x025, w⟩ = .instr (.wrP w)) ∧
    exec (.wrA w) s = .next { s with a := w.extractLsb' 0 8, outputs := ⟨0, false, false⟩ :: s.outputs } ∧
    exec (.wrX w) s = .next { s with x := w.extractLsb' 0 8, outputs := ⟨0, false, false⟩ :: s.outputs } ∧
    exec (.wrY w) s = .next { s with y := w.extractLsb' 0 8, outputs := ⟨0, false, false⟩ :: s.outputs } ∧
    exec (.wrSP w) s = .next { s with sp := w.extractLsb' 0 8, outputs := ⟨0, false, false⟩ :: s.outputs } ∧
    exec (.wrP w) s = .next { s with p := w.extractLsb' 0 8, outputs := ⟨0, false, false⟩ :: s.outputs }

/-- R61: WR.PC assigns all 16 bits of `wdata`, any value, and changes nothing else. -/
def Obligations.WritePcAssignsAllSixteenBits : Prop :=
  ∀ (w : Word) (s : State), decode ⟨0x024, w⟩ = .instr (.wrPC w) ∧
    exec (.wrPC w) s = .next { s with pc := w, outputs := ⟨0, false, false⟩ :: s.outputs }

/-- 40_register_access.md section 1 for NOP, 20_memory.md section 2 for the reads (they "may be repeated or dropped without
changing any later result"), 60_exceptions.md section 1 for the reserved words: NOP (`req` 0x000, any `wdata`) changes no register and drives zeros; and a request that
writes no register, inserted anywhere in a run, leaves the registers and all other outputs as they are without it. -/
def Obligations.SilentRequestsMayBeInsertedAnywhere : Prop :=
  (∀ w : Word, decode ⟨0x000, w⟩ = .instr .nop) ∧
  (∀ s : State, exec .nop s = .next { s with outputs := ⟨0, false, false⟩ :: s.outputs }) ∧
  (∀ (s : State) (before after : List Request) (q : Request),
    (∀ i reg, decode q = .instr i → i.writes reg = false) →
    ∃ (t u : State) (o : Output) (os₁ os₂ : List Output),
      run (before.length + after.length) { s with inputs := before ++ after } = .next t ∧
      run (before.length + (1 + after.length)) { s with inputs := before ++ q :: after } = .next u ∧
      u.registers = t.registers ∧ os₁.length = before.length ∧ os₂.length = after.length ∧
      t.outputs = os₂ ++ (os₁ ++ s.outputs) ∧ u.outputs = os₂ ++ o :: (os₁ ++ s.outputs) ∧
      (decode q = .instr .nop → o = ⟨0, false, false⟩))

/-- 20_memory.md section 4 and 40_register_access.md section 4: a read returns the latest earlier write to the register,
whatever requests that do not write it stand between. -/
def Obligations.ReadReturnsTheLatestWrite : Prop :=
  ∀ (reg : Reg) (w : Word) (between rest : List Request) (s : State),
    (∀ q ∈ between, ∀ i, decode q = .instr i → i.writes reg = false) →
    s.inputs = encode (.wrOf reg w) :: (between ++ encode (.rdOf reg) :: rest) →
    ∃ t, run (between.length + 2) s = .next t ∧ t.inputs = rest ∧
      t.outputs.head? = some ⟨if reg = .pc then w else (w.extractLsb' 0 8).zeroExtend 16, true, false⟩

/-- 10_state.md sections 3, 4 and 5: a register changes in a step only if the request performed is one of those its rule (R11
to R16) lists as its writers; a reserved request is none. -/
def Obligations.OnlyTheListedWritersChangeARegister : Prop :=
  ∀ (s t : State) (r : Request) (rest : List Request) (reg : Reg), s.inputs = r :: rest → step s = .next t →
    readReg reg t ≠ readReg reg s → ∃ i, decode r = .instr i ∧ i.writes reg = true

/-- 20_memory.md section 2: writing to a register the value it already holds changes no register. -/
def Obligations.WritingTheHeldValueChangesNothing : Prop :=
  ∀ (reg : Reg) (s : State),
    exec (.wrOf reg (readReg reg s)) s = .next { s with outputs := ⟨0, false, false⟩ :: s.outputs }

/-- 30_encoding.md section 6 and 60_exceptions.md R105: the six WR requests, in any order, build any wanted registers from
any state. -/
def Obligations.SixWritesInAnyOrderBuildAnyState : Prop :=
  ∀ (s : State) (g : Registers) (l : List Request),
    l.Perm [encode (.wrA (g.a.zeroExtend 16)), encode (.wrX (g.x.zeroExtend 16)), encode (.wrY (g.y.zeroExtend 16)),
      encode (.wrSP (g.sp.zeroExtend 16)), encode (.wrPC g.pc), encode (.wrP (g.p.zeroExtend 16))] →
    ∃ t, run 6 { s with inputs := l } = .next t ∧ t.registers = g ∧ t.errRaised = s.errRaised

/-! ## Status flags (41_status_flags.md, 10_state.md section 5) -/

/-- R70 to R77: GET returns the stored bit, zero-extended, with `rvalid` = 1 and changes no register; `wdata` is ignored. -/
def Obligations.GettersReturnTheStoredBit : Prop :=
  (∀ w : Word, decode ⟨0x030, w⟩ = .instr .getC ∧ decode ⟨0x031, w⟩ = .instr .getZ ∧ decode ⟨0x032, w⟩ = .instr .getI ∧
    decode ⟨0x033, w⟩ = .instr .getD ∧ decode ⟨0x034, w⟩ = .instr .getB ∧ decode ⟨0x035, w⟩ = .instr .getU ∧
    decode ⟨0x036, w⟩ = .instr .getV ∧ decode ⟨0x037, w⟩ = .instr .getN) ∧
  (∀ s : State,
    exec .getC s = .next { s with outputs := ⟨if s.p.getLsbD 0 then 1 else 0, true, false⟩ :: s.outputs } ∧
    exec .getZ s = .next { s with outputs := ⟨if s.p.getLsbD 1 then 1 else 0, true, false⟩ :: s.outputs } ∧
    exec .getI s = .next { s with outputs := ⟨if s.p.getLsbD 2 then 1 else 0, true, false⟩ :: s.outputs } ∧
    exec .getD s = .next { s with outputs := ⟨if s.p.getLsbD 3 then 1 else 0, true, false⟩ :: s.outputs } ∧
    exec .getB s = .next { s with outputs := ⟨if s.p.getLsbD 4 then 1 else 0, true, false⟩ :: s.outputs } ∧
    exec .getU s = .next { s with outputs := ⟨if s.p.getLsbD 5 then 1 else 0, true, false⟩ :: s.outputs } ∧
    exec .getV s = .next { s with outputs := ⟨if s.p.getLsbD 6 then 1 else 0, true, false⟩ :: s.outputs } ∧
    exec .getN s = .next { s with outputs := ⟨if s.p.getLsbD 7 then 1 else 0, true, false⟩ :: s.outputs })

/-- R78 to R85: SET.f v, at its word for v = 0 and v = 1 and with any `wdata`, gives bit f of P the value v, keeps the seven
other bits whatever they are, assigns no other register and drives zeros. -/
def Obligations.SettersChangeTheirBitAlone : Prop :=
  ∀ (mk : Bool → Instr) (k : Nat),
    (mk, k) ∈ [(Instr.setC, 0), (Instr.setZ, 1), (Instr.setI, 2), (Instr.setD, 3), (Instr.setB, 4), (Instr.setU, 5),
      (Instr.setV, 6), (Instr.setN, 7)] →
    ∀ (v : Bool) (w : Word) (s : State),
      decode ⟨BitVec.ofNat 10 (0x040 + 8 * v.toNat + k), w⟩ = .instr (mk v) ∧
      ∃ p' : Byte, exec (mk v) s = .next { s with p := p', outputs := ⟨0, false, false⟩ :: s.outputs } ∧
        ∀ j < 8, p'.getLsbD j = if j = k then v else s.p.getLsbD j

/-- R86: after SET.f v, a GET of any OTHER flag g returns what g was before, bit 5 included. -/
def Obligations.SettersAreOrthogonal : Prop :=
  ∀ (f g : Flag) (v : Bool) (s : State) (rest : List Request), g ≠ f →
    s.inputs = encode (.setOf f v) :: encode (.getOf g) :: rest →
    ∃ t, run 2 s = .next t ∧
      t.outputs.head? = some ⟨if s.p.getLsbD (flagPos g) then 1 else 0, true, false⟩

/-- R87: after SET.f v, GET.f returns v and RD.P returns `(w & ~mask(f)) | (v << pos(f))`. -/
def Obligations.SetThenGetReturnsTheValueSet : Prop :=
  ∀ (f : Flag) (v : Bool) (s : State) (rest : List Request),
    (s.inputs = encode (.setOf f v) :: encode (.getOf f) :: rest →
      ∃ t, run 2 s = .next t ∧ t.outputs.head? = some ⟨if v then 1 else 0, true, false⟩) ∧
    (s.inputs = encode (.setOf f v) :: encode .rdP :: rest →
      ∃ t, run 2 s = .next t ∧ t.outputs.head? =
        some ⟨((s.p &&& ~~~(1#8 <<< flagPos f)) ||| ((if v then 1#8 else 0#8) <<< flagPos f)).zeroExtend 16, true, false⟩)

/-- R88: SET.f v reaches the state of the raw write of the word with that one bit changed; the GET results are the bits of
RD.P; setters of different flags commute, and of the same flag the later wins. -/
def Obligations.SettersEquivalentToRawAccess : Prop :=
  (∀ (f : Flag) (v : Bool) (s : State), exec (.setOf f v) s =
    exec (.wrP (((s.p &&& ~~~(1#8 <<< flagPos f)) ||| ((if v then 1#8 else 0#8) <<< flagPos f)).zeroExtend 16)) s) ∧
  (∀ (f : Flag) (s : State), ∃ (t u : State) (ot ou : Output), exec (.getOf f) s = .next t ∧ exec .rdP s = .next u ∧
    t.outputs = ot :: s.outputs ∧ u.outputs = ou :: s.outputs ∧
    ot.rdata = (if ou.rdata.getLsbD (flagPos f) then 1 else 0)) ∧
  (∀ (f g : Flag) (v₁ v₂ : Bool) (s : State), f ≠ g → ∃ t,
    run 2 { s with inputs := [encode (.setOf f v₁), encode (.setOf g v₂)] } = .next t ∧
    run 2 { s with inputs := [encode (.setOf g v₂), encode (.setOf f v₁)] } = .next t) ∧
  (∀ (f : Flag) (v₁ v₂ : Bool) (s : State), ∃ t u,
    run 2 { s with inputs := [encode (.setOf f v₁), encode (.setOf f v₂)] } = .next t ∧
    run 1 { s with inputs := [encode (.setOf f v₂)] } = .next u ∧ t.registers = u.registers)

/-- R26: bit 5 of P is 1 after reset and a step clears it only on WR.P with `wdata[5]` = 0 or SET.U 0; POR sets it; RES and
the other setters keep it; and it is no invariant, since a run from reset reaches a state where it is 0. -/
def Obligations.BitFiveIsClearedOnlyOnRequest : Prop :=
  State.reset.p.getLsbD 5 = true ∧
  (∀ (s t : State) (r : Request) (rest : List Request), s.inputs = r :: rest → step s = .next t →
    s.p.getLsbD 5 = true → t.p.getLsbD 5 = false →
    (∃ w : Word, decode r = .instr (.wrP w) ∧ w.getLsbD 5 = false) ∨ decode r = .instr (.setU false)) ∧
  (∀ s : State, ∃ t, exec .por s = .next t ∧ t.p.getLsbD 5 = true) ∧
  (∀ s : State, ∃ t, exec .res s = .next t ∧ t.p.getLsbD 5 = s.p.getLsbD 5) ∧
  (∀ (f : Flag) (v : Bool) (s : State), f ≠ .u → ∃ t, exec (.setOf f v) s = .next t ∧ t.p.getLsbD 5 = s.p.getLsbD 5) ∧
  (∃ (r : Request) (t : State), run 1 { State.reset with inputs := [r] } = .next t ∧ t.p.getLsbD 5 = false)

/-- 10_state.md section 5: no request changes a flag as a side effect. A bit of P changes in a step only on POR, on WR.P, on
the bit's own setter, and, for bit 2, on RES. -/
def Obligations.FlagsChangeOnlyByTheirListedWriters : Prop :=
  ∀ (s t : State) (r : Request) (rest : List Request) (f : Flag), s.inputs = r :: rest → step s = .next t →
    t.p.getLsbD (flagPos f) ≠ s.p.getLsbD (flagPos f) →
    decode r = .instr .por ∨ (∃ w, decode r = .instr (.wrP w)) ∨ (∃ v, decode r = .instr (.setOf f v)) ∨
      (f = .i ∧ decode r = .instr .res)

/-! ## Power-on and reset (42_reset_ops.md, 60_exceptions.md, 70_reset_and_hazards.md) -/

/-- R90: POR, any word with `req[9]` = 1, gives the six registers their defaults, those of a run's start, whatever the state
was, and drives zeros; a second POR changes nothing more. -/
def Obligations.PowerOnGivesTheDefaults : Prop :=
  (∀ r : Request, r.req.getLsbD 9 = true → decode r = .instr .por) ∧
  (∀ s : State, exec .por s = .next
    { a := 0x00, x := 0x00, y := 0x00, sp := 0xFD, pc := 0xFFFC, p := 0x24, inputs := s.inputs,
      outputs := ⟨0, false, false⟩ :: s.outputs }) ∧
  State.reset.registers = ⟨0x00, 0x00, 0x00, 0xFD, 0xFFFC, 0x24⟩ ∧
  (∀ s t u : State, exec .por s = .next t → exec .por t = .next u → u.registers = t.registers)

/-- R91, R92: RES, any word with `req[9:8]` = 0b01, subtracts 3 from SP modulo 256, puts 0xFFFC in PC, sets bit 2 of P and
keeps A, X, Y and the seven other bits. -/
def Obligations.ResetLineChangesSpPcAndIAlone : Prop :=
  (∀ r : Request, r.req.getLsbD 9 = false → r.req.getLsbD 8 = true → decode r = .instr .res) ∧
  (∀ s : State, ∃ sp' p' : Byte,
    exec .res s = .next { s with sp := sp', pc := 0xFFFC, p := p', outputs := ⟨0, false, false⟩ :: s.outputs } ∧
    sp'.toNat = (s.sp.toNat + 256 - 3) % 256 ∧ p'.getLsbD 2 = true ∧
    ∀ k < 8, k ≠ 2 → p'.getLsbD k = s.p.getLsbD k)

/-- 42_reset_ops.md section 3, in the model's reading of its rule of repeated reset as one about at least one RES (log entry
13): n consecutive RES requests (n at least 1, any words with `req[9:8]` = 0b01) lower SP by 3n modulo 256 and otherwise
leave what one leaves; SP is back at its starting value exactly when 256 divides n; two from the default state give 0xF7. -/
def Obligations.RepeatedResetLowersSpByThreeEach : Prop :=
  (∀ (rs rest : List Request) (s : State), rs ≠ [] → (∀ r ∈ rs, r.req.getLsbD 9 = false ∧ r.req.getLsbD 8 = true) →
    s.inputs = rs ++ rest →
    ∃ t, run rs.length s = .next t ∧ t.inputs = rest ∧ t.a = s.a ∧ t.x = s.x ∧ t.y = s.y ∧ t.pc = 0xFFFC ∧
      t.p.getLsbD 2 = true ∧ (∀ k < 8, k ≠ 2 → t.p.getLsbD k = s.p.getLsbD k) ∧
      (t.sp.toNat + 3 * rs.length) % 256 = s.sp.toNat ∧ (t.sp = s.sp ↔ 256 ∣ rs.length)) ∧
  (∃ t, run 2 { State.reset with inputs := [⟨0x100, 0⟩, ⟨0x100, 0⟩] } = .next t ∧ t.sp = 0xF7)

/-- R94: RES is not POR. They agree on PC and on P.I; RES keeps A, X, Y and the seven other bits of P and gives SP 0xFD only
from SP = 0x00, where POR gives the defaults; each of A, X, Y, SP and the seven bits tells them apart in some state. -/
def Obligations.ResetLineIsNotPowerOn : Prop :=
  (∀ s : State, ∃ t u, exec .res s = .next t ∧ exec .por s = .next u ∧
    t.pc = 0xFFFC ∧ u.pc = 0xFFFC ∧ t.p.getLsbD 2 = true ∧ u.p.getLsbD 2 = true ∧
    t.a = s.a ∧ t.x = s.x ∧ t.y = s.y ∧ u.a = 0 ∧ u.x = 0 ∧ u.y = 0 ∧
    u.sp = 0xFD ∧ t.sp = s.sp - 3 ∧ (t.sp = 0xFD ↔ s.sp = 0x00) ∧
    (∀ k < 8, k ≠ 2 → t.p.getLsbD k = s.p.getLsbD k ∧ u.p.getLsbD k = (0x24#8).getLsbD k)) ∧
  (∃ s t u, exec .res s = .next t ∧ exec .por s = .next u ∧ t.a ≠ u.a ∧ t.x ≠ u.x ∧ t.y ≠ u.y ∧ t.sp ≠ u.sp ∧
    ∀ k < 8, k ≠ 2 → t.p.getLsbD k ≠ u.p.getLsbD k)

/-- R110: the values of all state at a run's start and after POR, and after RES. -/
def Obligations.BothResetsDefineEveryRegister : Prop :=
  State.reset.registers = ⟨0x00, 0x00, 0x00, 0xFD, 0xFFFC, 0x24⟩ ∧
  (∀ s : State, ∃ t, exec .por s = .next t ∧ t.registers = ⟨0x00, 0x00, 0x00, 0xFD, 0xFFFC, 0x24⟩) ∧
  (∀ s : State, ∃ t, exec .res s = .next t ∧ t.registers = ⟨s.a, s.x, s.y, s.sp - 3, 0xFFFC, s.p ||| 0x04⟩)

/-- R111: a freshly constructed block has SP = 0xFD; a first RES makes it 0xFA and a second 0xF7; POR includes no RES and
RES no POR. -/
def Obligations.FirstResetFromTheDefaultsGivesFA : Prop :=
  State.reset.sp = 0xFD ∧
  (∃ t, run 1 { State.reset with inputs := [⟨0x100, 0⟩] } = .next t ∧ t.sp = 0xFA) ∧
  (∃ t, run 2 { State.reset with inputs := [⟨0x100, 0⟩, ⟨0x100, 0⟩] } = .next t ∧ t.sp = 0xF7) ∧
  (∃ t, run 1 { State.reset with inputs := [⟨0x200, 0⟩] } = .next t ∧ t.sp = 0xFD)

/-- 60_exceptions.md R104: RES saves nothing. Two states that differ only in PC and in P.I are one and the same after it. -/
def Obligations.ResetLineForgetsPcAndI : Prop :=
  ∀ s₁ s₂ : State, s₁.a = s₂.a → s₁.x = s₂.x → s₁.y = s₂.y → s₁.sp = s₂.sp →
    (∀ k < 8, k ≠ 2 → s₁.p.getLsbD k = s₂.p.getLsbD k) → s₁.inputs = s₂.inputs → s₁.outputs = s₂.outputs →
    ∃ t, exec .res s₁ = .next t ∧ exec .res s₂ = .next t

/-- 70_reset_and_hazards.md section 3: an effect is visible to the very next request. Of any two requests, the second is
performed in the state the first one leaves, and what it returns is what that state gives. In values: RES after WR.SP
subtracts from the new SP; SET.f after WR.P modifies the new P; GET.f after WR.P, RES and POR sees the new P; RD after RES
and POR returns the new register. (RD after WR, and GET and RD.P after SET: `ReadReturnsTheLatestWrite`,
`SetThenGetReturnsTheValueSet`.) -/
def Obligations.EffectsAreVisibleToTheNextRequest : Prop :=
  (∀ (i j : Instr) (s : State) (rest : List Request), s.inputs = encode i :: encode j :: rest →
    ∃ t u : State, exec i { s with inputs := encode j :: rest } = .next t ∧ exec j { t with inputs := rest } = .next u ∧
      run 2 s = .next u ∧
      u.outputs = (match j.returns t with
        | some v => ⟨v, true, false⟩
        | none => ⟨0, false, false⟩) :: t.outputs) ∧
  (∀ (s : State) (w : Word) (rest : List Request), s.inputs = encode (.wrSP w) :: encode .res :: rest →
    ∃ t, run 2 s = .next t ∧ t.sp = w.extractLsb' 0 8 - 3) ∧
  (∀ (s : State) (w : Word) (f : Flag) (v : Bool) (rest : List Request),
    s.inputs = encode (.wrP w) :: encode (.setOf f v) :: rest →
    ∃ t, run 2 s = .next t ∧ ∀ k < 8, t.p.getLsbD k = if k = flagPos f then v else w.getLsbD k) ∧
  (∀ (s : State) (w : Word) (f : Flag) (rest : List Request),
    s.inputs = encode (.wrP w) :: encode (.getOf f) :: rest →
    ∃ t, run 2 s = .next t ∧
      t.outputs.head? = some ⟨if w.getLsbD (flagPos f) then 1 else 0, true, false⟩) ∧
  (∀ (s : State) (f : Flag) (rest : List Request), s.inputs = encode .res :: encode (.getOf f) :: rest →
    ∃ t, run 2 s = .next t ∧
      t.outputs.head? = some ⟨if f = .i ∨ s.p.getLsbD (flagPos f) = true then 1 else 0, true, false⟩) ∧
  (∀ (s : State) (f : Flag) (rest : List Request), s.inputs = encode .por :: encode (.getOf f) :: rest →
    ∃ t, run 2 s = .next t ∧ t.outputs.head? = some ⟨if f = .i ∨ f = .u then 1 else 0, true, false⟩) ∧
  (∀ (s : State) (reg : Reg) (rest : List Request), s.inputs = encode .res :: encode (.rdOf reg) :: rest →
    ∃ t, run 2 s = .next t ∧ t.outputs.head? = some ⟨match reg with
      | .a => s.a.zeroExtend 16
      | .x => s.x.zeroExtend 16
      | .y => s.y.zeroExtend 16
      | .sp => (s.sp - 3).zeroExtend 16
      | .pc => 0xFFFC
      | .p => (s.p ||| 0x04).zeroExtend 16, true, false⟩) ∧
  (∀ (s : State) (reg : Reg) (rest : List Request), s.inputs = encode .por :: encode (.rdOf reg) :: rest →
    ∃ t, run 2 s = .next t ∧ t.outputs.head? = some ⟨match reg with
      | .a => 0x0000
      | .x => 0x0000
      | .y => 0x0000
      | .sp => 0x00FD
      | .pc => 0xFFFC
      | .p => 0x0024, true, false⟩)

/-- 70_reset_and_hazards.md section 3 (R114): POR held for several steps is harmless: it leaves the default state. -/
def Obligations.HoldingPowerOnIsHarmless : Prop :=
  ∀ (rs rest : List Request) (s : State), rs ≠ [] → (∀ r ∈ rs, r.req.getLsbD 9 = true) → s.inputs = rs ++ rest →
    ∃ t, run rs.length s = .next t ∧ t.inputs = rest ∧ t.registers = State.reset.registers

/-! ## The assembler (30_encoding.md section 6) -/

/-- R48's lines: POR, RES, NOP, RD.r and GET.f assemble always, WR.r and SET.f exactly when the value fits, each to a request
that decodes to the one the line names; the value of a WR stands on `wdata` whole, and the others have `wdata` 0. -/
def Obligations.AssemblyRejectsValuesThatDoNotFit : Prop :=
  (∀ (reg : Reg) (value : Nat), (assemble (.wr reg value) = none ↔ (if reg = .pc then 0x10000 else 0x100) ≤ value) ∧
    (∀ r, assemble (.wr reg value) = some r →
      r.wdata.toNat = value ∧ decode r = .instr (.wrOf reg (BitVec.ofNat 16 value)))) ∧
  (∀ (f : Flag) (v : Nat), (assemble (.set f v) = none ↔ 2 ≤ v) ∧
    (∀ r, assemble (.set f v) = some r → r.wdata = 0 ∧ decode r = .instr (.setOf f (v == 1)))) ∧
  (∃ r, assemble .por = some r ∧ r.wdata = 0 ∧ decode r = .instr .por) ∧
  (∃ r, assemble .res = some r ∧ r.wdata = 0 ∧ decode r = .instr .res) ∧
  (∃ r, assemble .nop = some r ∧ r.wdata = 0 ∧ decode r = .instr .nop) ∧
  (∀ reg : Reg, ∃ r, assemble (.rd reg) = some r ∧ r.wdata = 0 ∧ decode r = .instr (.rdOf reg)) ∧
  (∀ f : Flag, ∃ r, assemble (.get f) = some r ∧ r.wdata = 0 ∧ decode r = .instr (.getOf f))

/-- R49's table: each pseudo-request expands to the one request its row names. -/
def Obligations.PseudoRequestsExpandAsTabled : Prop :=
  assemble .getp = assemble (.rd .p) ∧ (∀ value, assemble (.setp value) = assemble (.wr .p value)) ∧
  (∀ f, assemble (.se f) = assemble (.set f 1)) ∧ (∀ f, assemble (.cl f) = assemble (.set f 0)) ∧
  assemble .idle = assemble .nop
end

