-- ==== Sys2Proof/Laws/Assembler.lean ====
section
/-! SUPPORT. What assembling a line can answer. -/

namespace Sys2Proof.Machine

/-- A line assembles to the canonical request of its one instruction, where its operand fits. -/
theorem assemble_eq_some_iff {l : Line} {r : Request} :
    assemble l = some r ↔ l.wellFormed = true ∧ encode (lineInstr l) = r := by
  unfold assemble
  split <;> simp_all

/-- A line is an assembly error exactly where its operand does not fit. -/
theorem assemble_eq_none_iff {l : Line} : assemble l = none ↔ l.wellFormed = false := by
  unfold assemble
  split <;> simp_all

end Sys2Proof.Machine
end

