-- ==== Sys2Proof/Laws/Decode.lean ====
section
/-! SUPPORT. What the decoder reads from the port `wdata`: the write operand of a WR request and nothing else. -/

namespace Sys2Proof

/-- The same answer with the operand of a WR request replaced. -/
def Decoded.withOperand (d : Word) : Decoded → Decoded
  | .instr (.wrA _) => .instr (.wrA d)
  | .instr (.wrX _) => .instr (.wrX d)
  | .instr (.wrY _) => .instr (.wrY d)
  | .instr (.wrSP _) => .instr (.wrSP d)
  | .instr (.wrPC _) => .instr (.wrPC d)
  | .instr (.wrP _) => .instr (.wrP d)
  | other => other

/-- Decoding with any `wdata` from decoding with `wdata` 0: so a fact about all requests is one about the 1024 words. -/
theorem decode_eq_withOperand (w : ReqWord) (d : Word) : decode ⟨w, d⟩ = (decode ⟨w, 0⟩).withOperand d := by
  dsimp only [decode]
  unfold decodeCmd
  split
  · rfl
  split
  · rfl
  split
  · split <;> rfl
  · split
    · rfl
    split
    · next r _ => cases r <;> rfl
    · rfl
  · split
    · rfl
    split
    · next r _ => cases r <;> rfl
    · rfl
  · split
    · rfl
    cases flagOfSel (selField w) <;> rfl
  · cases flagOfSel (selField w) <;> rfl
  · rfl

/-- The encoder and the decoder agree on RD, WR, GET and SET by register and by flag. -/
theorem encode_rdOf_wdata (r : Reg) : (encode (.rdOf r)).wdata = 0 := by cases r <;> rfl

theorem encode_getOf_wdata (f : Flag) : (encode (.getOf f)).wdata = 0 := by cases f <;> rfl

theorem encode_setOf_wdata (f : Flag) (v : Bool) : (encode (.setOf f v)).wdata = 0 := by cases f <;> rfl

theorem encode_wrOf_wdata (r : Reg) (w : Word) : (encode (.wrOf r w)).wdata = w := by cases r <;> rfl

end Sys2Proof
end

