-- ==== Sys2Proof/Laws/State.lean ====
section
/-! SUPPORT. One lemma per field per update of State, all true by rfl, so that no proof unfolds a record update. -/

namespace Sys2Proof.Machine

@[simp] theorem State.setA_a (s : State) (v : Byte) : (s.setA v).a = v := rfl
@[simp] theorem State.setA_x (s : State) (v : Byte) : (s.setA v).x = s.x := rfl
@[simp] theorem State.setA_y (s : State) (v : Byte) : (s.setA v).y = s.y := rfl
@[simp] theorem State.setA_sp (s : State) (v : Byte) : (s.setA v).sp = s.sp := rfl
@[simp] theorem State.setA_pc (s : State) (v : Byte) : (s.setA v).pc = s.pc := rfl
@[simp] theorem State.setA_p (s : State) (v : Byte) : (s.setA v).p = s.p := rfl
@[simp] theorem State.setA_inputs (s : State) (v : Byte) : (s.setA v).inputs = s.inputs := rfl
@[simp] theorem State.setA_outputs (s : State) (v : Byte) : (s.setA v).outputs = s.outputs := rfl

@[simp] theorem State.setX_a (s : State) (v : Byte) : (s.setX v).a = s.a := rfl
@[simp] theorem State.setX_x (s : State) (v : Byte) : (s.setX v).x = v := rfl
@[simp] theorem State.setX_y (s : State) (v : Byte) : (s.setX v).y = s.y := rfl
@[simp] theorem State.setX_sp (s : State) (v : Byte) : (s.setX v).sp = s.sp := rfl
@[simp] theorem State.setX_pc (s : State) (v : Byte) : (s.setX v).pc = s.pc := rfl
@[simp] theorem State.setX_p (s : State) (v : Byte) : (s.setX v).p = s.p := rfl
@[simp] theorem State.setX_inputs (s : State) (v : Byte) : (s.setX v).inputs = s.inputs := rfl
@[simp] theorem State.setX_outputs (s : State) (v : Byte) : (s.setX v).outputs = s.outputs := rfl

@[simp] theorem State.setY_a (s : State) (v : Byte) : (s.setY v).a = s.a := rfl
@[simp] theorem State.setY_x (s : State) (v : Byte) : (s.setY v).x = s.x := rfl
@[simp] theorem State.setY_y (s : State) (v : Byte) : (s.setY v).y = v := rfl
@[simp] theorem State.setY_sp (s : State) (v : Byte) : (s.setY v).sp = s.sp := rfl
@[simp] theorem State.setY_pc (s : State) (v : Byte) : (s.setY v).pc = s.pc := rfl
@[simp] theorem State.setY_p (s : State) (v : Byte) : (s.setY v).p = s.p := rfl
@[simp] theorem State.setY_inputs (s : State) (v : Byte) : (s.setY v).inputs = s.inputs := rfl
@[simp] theorem State.setY_outputs (s : State) (v : Byte) : (s.setY v).outputs = s.outputs := rfl

@[simp] theorem State.setSP_a (s : State) (v : Byte) : (s.setSP v).a = s.a := rfl
@[simp] theorem State.setSP_x (s : State) (v : Byte) : (s.setSP v).x = s.x := rfl
@[simp] theorem State.setSP_y (s : State) (v : Byte) : (s.setSP v).y = s.y := rfl
@[simp] theorem State.setSP_sp (s : State) (v : Byte) : (s.setSP v).sp = v := rfl
@[simp] theorem State.setSP_pc (s : State) (v : Byte) : (s.setSP v).pc = s.pc := rfl
@[simp] theorem State.setSP_p (s : State) (v : Byte) : (s.setSP v).p = s.p := rfl
@[simp] theorem State.setSP_inputs (s : State) (v : Byte) : (s.setSP v).inputs = s.inputs := rfl
@[simp] theorem State.setSP_outputs (s : State) (v : Byte) : (s.setSP v).outputs = s.outputs := rfl

@[simp] theorem State.setPC_a (s : State) (v : Word) : (s.setPC v).a = s.a := rfl
@[simp] theorem State.setPC_x (s : State) (v : Word) : (s.setPC v).x = s.x := rfl
@[simp] theorem State.setPC_y (s : State) (v : Word) : (s.setPC v).y = s.y := rfl
@[simp] theorem State.setPC_sp (s : State) (v : Word) : (s.setPC v).sp = s.sp := rfl
@[simp] theorem State.setPC_pc (s : State) (v : Word) : (s.setPC v).pc = v := rfl
@[simp] theorem State.setPC_p (s : State) (v : Word) : (s.setPC v).p = s.p := rfl
@[simp] theorem State.setPC_inputs (s : State) (v : Word) : (s.setPC v).inputs = s.inputs := rfl
@[simp] theorem State.setPC_outputs (s : State) (v : Word) : (s.setPC v).outputs = s.outputs := rfl

@[simp] theorem State.setP_a (s : State) (v : Byte) : (s.setP v).a = s.a := rfl
@[simp] theorem State.setP_x (s : State) (v : Byte) : (s.setP v).x = s.x := rfl
@[simp] theorem State.setP_y (s : State) (v : Byte) : (s.setP v).y = s.y := rfl
@[simp] theorem State.setP_sp (s : State) (v : Byte) : (s.setP v).sp = s.sp := rfl
@[simp] theorem State.setP_pc (s : State) (v : Byte) : (s.setP v).pc = s.pc := rfl
@[simp] theorem State.setP_p (s : State) (v : Byte) : (s.setP v).p = v := rfl
@[simp] theorem State.setP_inputs (s : State) (v : Byte) : (s.setP v).inputs = s.inputs := rfl
@[simp] theorem State.setP_outputs (s : State) (v : Byte) : (s.setP v).outputs = s.outputs := rfl

@[simp] theorem State.setInputs_a (s : State) (rs : List Request) : (s.setInputs rs).a = s.a := rfl
@[simp] theorem State.setInputs_x (s : State) (rs : List Request) : (s.setInputs rs).x = s.x := rfl
@[simp] theorem State.setInputs_y (s : State) (rs : List Request) : (s.setInputs rs).y = s.y := rfl
@[simp] theorem State.setInputs_sp (s : State) (rs : List Request) : (s.setInputs rs).sp = s.sp := rfl
@[simp] theorem State.setInputs_pc (s : State) (rs : List Request) : (s.setInputs rs).pc = s.pc := rfl
@[simp] theorem State.setInputs_p (s : State) (rs : List Request) : (s.setInputs rs).p = s.p := rfl
@[simp] theorem State.setInputs_inputs (s : State) (rs : List Request) : (s.setInputs rs).inputs = rs := rfl
@[simp] theorem State.setInputs_outputs (s : State) (rs : List Request) : (s.setInputs rs).outputs = s.outputs := rfl
@[simp] theorem State.setInputs_registers (s : State) (rs : List Request) : (s.setInputs rs).registers = s.registers := rfl

@[simp] theorem State.drive_a (s : State) (o : Output) : (s.drive o).a = s.a := rfl
@[simp] theorem State.drive_x (s : State) (o : Output) : (s.drive o).x = s.x := rfl
@[simp] theorem State.drive_y (s : State) (o : Output) : (s.drive o).y = s.y := rfl
@[simp] theorem State.drive_sp (s : State) (o : Output) : (s.drive o).sp = s.sp := rfl
@[simp] theorem State.drive_pc (s : State) (o : Output) : (s.drive o).pc = s.pc := rfl
@[simp] theorem State.drive_p (s : State) (o : Output) : (s.drive o).p = s.p := rfl
@[simp] theorem State.drive_inputs (s : State) (o : Output) : (s.drive o).inputs = s.inputs := rfl
@[simp] theorem State.drive_outputs (s : State) (o : Output) : (s.drive o).outputs = o :: s.outputs := rfl
@[simp] theorem State.drive_registers (s : State) (o : Output) : (s.drive o).registers = s.registers := rfl

/-- Two states with equal registers, inputs and outputs are equal. -/
theorem State.eq_of_parts {s t : State} (hr : s.registers = t.registers) (hi : s.inputs = t.inputs)
    (ho : s.outputs = t.outputs) : s = t := by
  cases s
  cases t
  simp_all [State.registers]

end Sys2Proof.Machine
end

