-- ==== Sys2Proof/Laws/Ops.lean ====
section
/-! SUPPORT. One lemma per shared operation, saying once everything it does; the provers cite these instead of unfolding. -/

namespace Sys2Proof.Machine

/-- The only thing `finish` can answer. -/
theorem finish_eq_next_iff {s t : State} : finish s = .next t ↔ t = s.drive .silent := by
  simp [finish, eq_comm]

/-- The only thing `answer` can answer. -/
theorem answer_eq_next_iff {v : Word} {s t : State} : answer v s = .next t ↔ t = s.drive (.result v) := by
  simp [answer, eq_comm]

/-- The only thing `raiseReserved` can answer: no register changes, `err` is driven (60_exceptions.md R101). -/
theorem raiseReserved_eq_next_iff {s t : State} : raiseReserved s = .next t ↔ t = s.drive .error := by
  simp [raiseReserved, eq_comm]

/-- Power-on leaves the registers of the reset state, and the host's side alone. -/
theorem powerOn_parts (s : State) :
    (powerOn s).registers = State.reset.registers ∧ (powerOn s).inputs = s.inputs ∧ (powerOn s).outputs = s.outputs :=
  ⟨rfl, rfl, rfl⟩

/-- The reset event in terms of the six registers, and the host's side alone. -/
theorem takeReset_parts (s : State) :
    (takeReset s).registers = ⟨s.a, s.x, s.y, s.sp - 3, 0xFFFC, s.p ||| 0x04⟩ ∧
      (takeReset s).inputs = s.inputs ∧ (takeReset s).outputs = s.outputs :=
  ⟨rfl, rfl, rfl⟩

/-- A register write leaves the host's side alone. -/
@[simp] theorem writeReg_inputs (r : Reg) (w : Word) (s : State) : (writeReg r w s).inputs = s.inputs := by
  cases r <;> rfl

@[simp] theorem writeReg_outputs (r : Reg) (w : Word) (s : State) : (writeReg r w s).outputs = s.outputs := by
  cases r <;> rfl

/-- Reading another register after a write gives what it held. -/
theorem readReg_writeReg_of_ne {r r' : Reg} (h : r' ≠ r) (w : Word) (s : State) :
    readReg r' (writeReg r w s) = readReg r' s := by
  cases r <;> cases r' <;> first | exact absurd rfl h | rfl

/-- Reading the register written gives the operand, an 8-bit one zero-extended. -/
theorem readReg_writeReg_self (r : Reg) (w : Word) (s : State) :
    readReg r (writeReg r w s) = if r = .pc then w else byteResult (byteOperand w) := by
  cases r <;> rfl

/-- Driving the outputs and taking a request leave every register alone. -/
@[simp] theorem readReg_drive (r : Reg) (s : State) (o : Output) : readReg r (s.drive o) = readReg r s := by
  cases r <;> rfl

@[simp] theorem readReg_setInputs (r : Reg) (s : State) (rs : List Request) :
    readReg r (s.setInputs rs) = readReg r s := by
  cases r <;> rfl

/-- What a register reads as depends on the registers alone. -/
theorem readReg_congr {s t : State} (h : s.registers = t.registers) (r : Reg) : readReg r s = readReg r t := by
  simp only [State.registers, Registers.mk.injEq] at h
  obtain ⟨ha, hx, hy, hsp, hpc, hp⟩ := h
  cases r <;> simp [readReg, *]

/-- The low byte of a zero-extended byte is that byte. -/
@[simp] theorem byteOperand_byteResult (v : Byte) : byteOperand (byteResult v) = v := by
  apply BitVec.eq_of_toNat_eq
  simp [byteOperand, byteResult]
  omega

/-- A GET result is 1 or 0 (30_encoding.md R47). -/
theorem bitResult_eq_ite (b : Bool) : bitResult b = if b = true then 1 else 0 := by
  cases b <;> rfl

/-- The stored bits after a SET: bit `pos f` is `val`, the others are kept. -/
theorem setFlag_getLsbD (f : Flag) (val : Bool) (p : Byte) (k : Nat) :
    (setFlag f val p).getLsbD k = if k = flagPos f then val else p.getLsbD k := by
  by_cases hk : k < 8
  · have hk' : k = 0 ∨ k = 1 ∨ k = 2 ∨ k = 3 ∨ k = 4 ∨ k = 5 ∨ k = 6 ∨ k = 7 := by omega
    rcases hk' with rfl | rfl | rfl | rfl | rfl | rfl | rfl | rfl <;> cases f <;> cases val <;>
      simp [setFlag, flagMask, flagPos]
  · have : k ≠ flagPos f := by cases f <;> simp [flagPos] <;> omega
    rw [if_neg this, BitVec.getLsbD_of_ge (setFlag f val p) k (by omega), BitVec.getLsbD_of_ge p k (by omega)]

/-- Two flags at one bit position are one flag (30_encoding.md R43). -/
theorem flagPos_injective {f g : Flag} (h : flagPos f = flagPos g) : f = g := by
  cases f <;> cases g <;> first | rfl | exact absurd h (by decide)

/-- A flag's position lies in P. -/
theorem flagPos_lt (f : Flag) : flagPos f < 8 := by cases f <;> decide

/-- Fetching takes the head of the host's list and nothing else. -/
theorem fetch_eq_some_iff {s s' : State} {r : Request} :
    fetch s = some (r, s') ↔ ∃ rest, s.inputs = r :: rest ∧ s' = s.setInputs rest := by
  unfold fetch
  cases s.inputs with
  | nil => simp
  | cons hd tl => simp [eq_comm]

/-- Fetching fails exactly at the end of the run. -/
theorem fetch_eq_none_iff {s : State} : fetch s = none ↔ s.inputs = [] := by
  unfold fetch
  cases s.inputs <;> simp

/-- All that a step which answers a next state can have done: it took one request, and either performed the instruction it
decodes to or raised the error of a reserved word. -/
theorem step_cases {s t : State} (h : step s = .next t) :
    ∃ r rest, s.inputs = r :: rest ∧
      ((∃ i, decode r = .instr i ∧ exec i (s.setInputs rest) = .next t) ∨
        (∃ why, decode r = .reserved why ∧ t = (s.setInputs rest).drive .error)) := by
  unfold step at h
  split at h
  · cases h
  · next r s' hf =>
    obtain ⟨rest, hi, rfl⟩ := fetch_eq_some_iff.mp hf
    refine ⟨r, rest, hi, ?_⟩
    unfold perform at h
    split at h
    · next i hd => exact .inl ⟨i, hd, h⟩
    · next why hd => exact .inr ⟨why, hd, raiseReserved_eq_next_iff.mp h⟩

/-- A step with a request at hand performs that request. -/
theorem step_of_inputs {s : State} {r : Request} {rest : List Request} (h : s.inputs = r :: rest) :
    step s = perform r (s.setInputs rest) := by
  unfold step fetch
  rw [h]

end Sys2Proof.Machine
end

