-- ==== Sys2Proof/Laws/PerInstr.lean ====
section
/-! SUPPORT. The statement made per instruction: its canonical word lies in its own row of the opcode table. -/

namespace Sys2Proof.Laws.CanonicalWord

/-- The canonical word of `i` selects the row that spec/opcode_table.json gives `i` (30_encoding.md section 4). -/
def Statement (i : Instr) : Prop := i.row.selects (encode i).req = true

theorem por : Statement .por := by unfold Statement; rfl
theorem res : Statement .res := by unfold Statement; rfl
theorem nop : Statement .nop := by unfold Statement; rfl
theorem rdA : Statement .rdA := by unfold Statement; rfl
theorem rdX : Statement .rdX := by unfold Statement; rfl
theorem rdY : Statement .rdY := by unfold Statement; rfl
theorem rdSP : Statement .rdSP := by unfold Statement; rfl
theorem rdPC : Statement .rdPC := by unfold Statement; rfl
theorem rdP : Statement .rdP := by unfold Statement; rfl
theorem wrA (wdata : Word) : Statement (.wrA wdata) := by simp [Statement, Instr.row, Row.selects, encode]
theorem wrX (wdata : Word) : Statement (.wrX wdata) := by simp [Statement, Instr.row, Row.selects, encode]
theorem wrY (wdata : Word) : Statement (.wrY wdata) := by simp [Statement, Instr.row, Row.selects, encode]
theorem wrSP (wdata : Word) : Statement (.wrSP wdata) := by simp [Statement, Instr.row, Row.selects, encode]
theorem wrPC (wdata : Word) : Statement (.wrPC wdata) := by simp [Statement, Instr.row, Row.selects, encode]
theorem wrP (wdata : Word) : Statement (.wrP wdata) := by simp [Statement, Instr.row, Row.selects, encode]
theorem getC : Statement .getC := by unfold Statement; rfl
theorem getZ : Statement .getZ := by unfold Statement; rfl
theorem getI : Statement .getI := by unfold Statement; rfl
theorem getD : Statement .getD := by unfold Statement; rfl
theorem getB : Statement .getB := by unfold Statement; rfl
theorem getU : Statement .getU := by unfold Statement; rfl
theorem getV : Statement .getV := by unfold Statement; rfl
theorem getN : Statement .getN := by unfold Statement; rfl
theorem setC (val : Bool) : Statement (.setC val) := by unfold Statement; cases val <;> rfl
theorem setZ (val : Bool) : Statement (.setZ val) := by unfold Statement; cases val <;> rfl
theorem setI (val : Bool) : Statement (.setI val) := by unfold Statement; cases val <;> rfl
theorem setD (val : Bool) : Statement (.setD val) := by unfold Statement; cases val <;> rfl
theorem setB (val : Bool) : Statement (.setB val) := by unfold Statement; cases val <;> rfl
theorem setU (val : Bool) : Statement (.setU val) := by unfold Statement; cases val <;> rfl
theorem setV (val : Bool) : Statement (.setV val) := by unfold Statement; cases val <;> rfl
theorem setN (val : Bool) : Statement (.setN val) := by unfold Statement; cases val <;> rfl

end Sys2Proof.Laws.CanonicalWord
end

