-- ==== Sys2Proof/Laws/Run.lean ====
section
/-! SUPPORT. What a meaning and a run of steps do to the host's side of a state. -/

namespace Sys2Proof.Machine

/-- Every meaning is one function of the registers: from two states that agree on them it leaves the same registers and
drives the same output, and it leaves what the host has still to present alone. -/
theorem exec_congr (i : Instr) {s s' : State} (h : s.registers = s'.registers) :
    ∃ (t t' : State) (o : Output), exec i s = .next t ∧ exec i s' = .next t' ∧ t.registers = t'.registers ∧
      t.inputs = s.inputs ∧ t'.inputs = s'.inputs ∧ t.outputs = o :: s.outputs ∧ t'.outputs = o :: s'.outputs := by
  cases s
  cases s'
  simp only [State.registers, Registers.mk.injEq] at h
  obtain ⟨rfl, rfl, rfl, rfl, rfl, rfl⟩ := h
  cases i <;> exact ⟨_, _, _, rfl, rfl, rfl, rfl, rfl, rfl, rfl⟩

/-- A register access request in terms of `readReg` and `writeReg`. -/
theorem exec_rdOf (r : Reg) (s : State) : exec (.rdOf r) s = .next (s.drive (.result (readReg r s))) := by
  cases r <;> rfl

theorem exec_wrOf (r : Reg) (w : Word) (s : State) : exec (.wrOf r w) s = .next ((writeReg r w s).drive .silent) := by
  cases r <;> rfl

/-- A flag request in terms of `readFlag` and `writeFlag`. -/
theorem exec_getOf (f : Flag) (s : State) : exec (.getOf f) s = .next (s.drive (.result (readFlag f s))) := by
  cases f <;> rfl

theorem exec_setOf (f : Flag) (v : Bool) (s : State) :
    exec (.setOf f v) s = .next ((writeFlag f v s).drive .silent) := by
  cases f <;> rfl

/-- A run of no step. -/
theorem run_zero (s : State) : run 0 s = .next s := rfl

/-- A run that begins with a step to `t`. -/
theorem run_succ_of_step {s t : State} (n : Nat) (h : step s = .next t) : run (n + 1) s = run n t := by
  have hc : Sys2Proof.core.step s = .next t := h
  simp only [run, Host.Core.run]
  rw [hc]

/-- A run that begins with a fault ends there. -/
theorem run_succ_of_fault {s : State} {r : Fault} (n : Nat) (h : step s = .fault r) : run (n + 1) s = .fault r := by
  have hc : Sys2Proof.core.step s = .fault r := h
  simp only [run, Host.Core.run]
  rw [hc]
  rfl

/-- A run that begins with a refusal ends there. -/
theorem run_succ_of_refused {s : State} {r : Refusal} (n : Nat) (h : step s = .refused r) :
    run (n + 1) s = .refused r := by
  have hc : Sys2Proof.core.step s = .refused r := h
  simp only [run, Host.Core.run]
  rw [hc]
  rfl

/-- A run in two parts. -/
theorem run_add {s t : State} {n : Nat} (m : Nat) (h : run n s = .next t) : run (n + m) s = run m t := by
  induction n generalizing s with
  | zero =>
    rw [run_zero] at h
    cases h
    rw [Nat.zero_add]
  | succ n ih =>
    cases hs : step s with
    | next u =>
      rw [run_succ_of_step n hs] at h
      rw [Nat.add_right_comm, run_succ_of_step (n + m) hs]
      exact ih h
    | fault r =>
      rw [run_succ_of_fault n hs] at h
      cases h
    | refused r =>
      rw [run_succ_of_refused n hs] at h
      cases h

end Sys2Proof.Machine
end

