-- ==== Sys2Proof/Tests/Slice0.lean ====
section
/-! SUPPORT. Our own tests, and for every statement that has hypotheses a state and operands that meet them. The expected
values are the spec's: the encodings of 30_encoding.md section 4 and the vectors of 95_test_vectors.md section 3. -/

namespace Sys2Proof.Tests

open Sys2Proof Sys2Proof.Machine

/-! ## Decoding: words written out bit by bit from 30_encoding.md section 4 (POR RES OP VAL SEL) -/

/-- What the decoder reads from a word, `wdata` 0xA5C3. -/
def read (w : ReqWord) : Decoded := decode ⟨w, 0xA5C3⟩

theorem test_decode_por : read 0b1000000000 = .instr .por ∧ read 0b1100000000 = .instr .por ∧
    read 0b1111111111 = .instr .por ∧ read 0b1000100101 = .instr .por := by decide

theorem test_decode_res : read 0b0100000000 = .instr .res ∧ read 0b0111111111 = .instr .res ∧
    read 0b0100010110 = .instr .res := by decide

theorem test_decode_nop : read 0b0000000000 = .instr .nop := by decide

theorem test_decode_rd : read 0b0000010000 = .instr .rdA ∧ read 0b0000010001 = .instr .rdX ∧
    read 0b0000010010 = .instr .rdY ∧ read 0b0000010011 = .instr .rdSP ∧ read 0b0000010100 = .instr .rdPC ∧
    read 0b0000010101 = .instr .rdP := by decide

theorem test_decode_wr : read 0b0000100000 = .instr (.wrA 0xA5C3) ∧ read 0b0000100001 = .instr (.wrX 0xA5C3) ∧
    read 0b0000100010 = .instr (.wrY 0xA5C3) ∧ read 0b0000100011 = .instr (.wrSP 0xA5C3) ∧
    read 0b0000100100 = .instr (.wrPC 0xA5C3) ∧ read 0b0000100101 = .instr (.wrP 0xA5C3) := by decide

theorem test_decode_get : read 0b0000110000 = .instr .getC ∧ read 0b0000110001 = .instr .getZ ∧
    read 0b0000110010 = .instr .getI ∧ read 0b0000110011 = .instr .getD ∧ read 0b0000110100 = .instr .getB ∧
    read 0b0000110101 = .instr .getU ∧ read 0b0000110110 = .instr .getV ∧ read 0b0000110111 = .instr .getN := by decide

theorem test_decode_set_0 : read 0b0001000000 = .instr (.setC false) ∧ read 0b0001000001 = .instr (.setZ false) ∧
    read 0b0001000010 = .instr (.setI false) ∧ read 0b0001000011 = .instr (.setD false) ∧
    read 0b0001000100 = .instr (.setB false) ∧ read 0b0001000101 = .instr (.setU false) ∧
    read 0b0001000110 = .instr (.setV false) ∧ read 0b0001000111 = .instr (.setN false) := by decide

theorem test_decode_set_1 : read 0b0001001000 = .instr (.setC true) ∧ read 0b0001001001 = .instr (.setZ true) ∧
    read 0b0001001010 = .instr (.setI true) ∧ read 0b0001001011 = .instr (.setD true) ∧
    read 0b0001001100 = .instr (.setB true) ∧ read 0b0001001101 = .instr (.setU true) ∧
    read 0b0001001110 = .instr (.setV true) ∧ read 0b0001001111 = .instr (.setN true) := by decide

/-- Both ends of each row of R45's table, and the words beside them. -/
theorem test_decode_reserved :
    read 0x001 = .reserved .nopWithFields ∧ read 0x008 = .reserved .nopWithFields ∧ read 0x00F = .reserved .nopWithFields ∧
    read 0x016 = .reserved .rdNoSuchRegister ∧ read 0x017 = .reserved .rdNoSuchRegister ∧
    read 0x018 = .reserved .rdWithVal ∧ read 0x01F = .reserved .rdWithVal ∧
    read 0x026 = .reserved .wrNoSuchRegister ∧ read 0x027 = .reserved .wrNoSuchRegister ∧
    read 0x028 = .reserved .wrWithVal ∧ read 0x02F = .reserved .wrWithVal ∧
    read 0x038 = .reserved .getWithVal ∧ read 0x03F = .reserved .getWithVal ∧
    read 0x050 = .reserved .opReserved ∧ read 0x0FF = .reserved .opReserved := by decide

/-- How many of the 256 words with `req[9:8]` = 0b00 are reserved. -/
def reservedCount : Nat :=
  ((List.range 256).filter fun k =>
    match decode ⟨BitVec.ofNat 10 k, 0⟩ with
    | .reserved _ => true
    | .instr _ => false).length

/-- 95_test_vectors.md section 3.1: 219 reserved words, 37 requests. -/
theorem test_reserved_count : reservedCount = 219 := by decide +kernel

/-! ## The encoder and the numbering of the table -/

theorem test_encode : encode .por = ⟨0x200, 0⟩ ∧ encode .res = ⟨0x100, 0⟩ ∧ encode .rdSP = ⟨0x013, 0⟩ ∧
    encode (.wrPC 0x1235) = ⟨0x024, 0x1235⟩ ∧ encode .getN = ⟨0x037, 0⟩ ∧ encode (.setU false) = ⟨0x045, 0⟩ ∧
    encode (.setU true) = ⟨0x04D, 0⟩ := by decide

theorem test_table_word : decodeTableWord 10 0x04A = some (.setI true) ∧ decodeTableWord 16 0x04A = some (.setI true) ∧
    decodeTableWord 10 0x024 = some (.wrPC 0) ∧ decodeTableWord 10 0x016 = none ∧ decodeTableWord 16 0x400 = none := by
  decide

/-! ## One step each (95_test_vectors.md section 3.2 to 3.5) -/

/-- S1 of 95_test_vectors.md. -/
def S1 : State := { State.reset with a := 0x55, x := 0xAA, y := 0x33, sp := 0x80, pc := 0x1234, p := 0xC3 }

/-- The registers and the output of one step. -/
def after (s : State) (req : ReqWord) (wdata : Word) : Option (Registers × Output) :=
  match step { s with inputs := [⟨req, wdata⟩] } with
  | .next t =>
    match t.outputs with
    | [o] => some (t.registers, o)
    | _ => none
  | _ => none

/-- S1 with P replaced. -/
def withP (p : Byte) : State := { S1 with p := p }

/-- P after one step from S1 with P replaced, where the step leaves the other registers and drives zeros. -/
def pAfter (p : Byte) (req : ReqWord) : Option Byte :=
  match after (withP p) req 0xFFFF with
  | some (⟨0x55, 0xAA, 0x33, 0x80, 0x1234, p'⟩, ⟨0, false, false⟩) => some p'
  | _ => none

/-- The value one step returns from S1 with P replaced, where the step leaves every register. -/
def got (p : Byte) (req : ReqWord) : Option Word :=
  match after (withP p) req 0xFFFF with
  | some (g, ⟨v, true, false⟩) => if g = (withP p).registers then some v else none
  | _ => none

theorem test_nop : after S1 0x000 0xFFFF = some (⟨0x55, 0xAA, 0x33, 0x80, 0x1234, 0xC3⟩, ⟨0, false, false⟩) := by decide

theorem test_rd : got 0xC3 0x010 = some 0x0055 ∧ got 0xC3 0x011 = some 0x00AA ∧ got 0xC3 0x012 = some 0x0033 ∧
    got 0xC3 0x013 = some 0x0080 ∧ got 0xC3 0x014 = some 0x1234 ∧ got 0xC3 0x015 = some 0x00C3 := by decide

theorem test_wr_byte :
    after S1 0x020 0x1277 = some (⟨0x77, 0xAA, 0x33, 0x80, 0x1234, 0xC3⟩, ⟨0, false, false⟩) ∧
    after S1 0x021 0x00FF = some (⟨0x55, 0xFF, 0x33, 0x80, 0x1234, 0xC3⟩, ⟨0, false, false⟩) ∧
    after S1 0x022 0x0001 = some (⟨0x55, 0xAA, 0x01, 0x80, 0x1234, 0xC3⟩, ⟨0, false, false⟩) ∧
    after S1 0x023 0x0000 = some (⟨0x55, 0xAA, 0x33, 0x00, 0x1234, 0xC3⟩, ⟨0, false, false⟩) ∧
    after S1 0x025 0xAB00 = some (⟨0x55, 0xAA, 0x33, 0x80, 0x1234, 0x00⟩, ⟨0, false, false⟩) := by decide

/-- WR.A touches no flag: not Z for 0x00, not N for 0x80. -/
theorem test_wr_a_flags :
    after S1 0x020 0x0000 = some (⟨0x00, 0xAA, 0x33, 0x80, 0x1234, 0xC3⟩, ⟨0, false, false⟩) ∧
    after State.reset 0x020 0x0080 = some (⟨0x80, 0x00, 0x00, 0xFD, 0xFFFC, 0x24⟩, ⟨0, false, false⟩) := by decide

theorem test_wr_pc :
    after S1 0x024 0xFFFF = some (⟨0x55, 0xAA, 0x33, 0x80, 0xFFFF, 0xC3⟩, ⟨0, false, false⟩) ∧
    after S1 0x024 0x1235 = some (⟨0x55, 0xAA, 0x33, 0x80, 0x1235, 0xC3⟩, ⟨0, false, false⟩) := by decide

/-- The GET table's rows for P = 0x24 and P = 0x5A. -/
theorem test_get :
    ([0x030, 0x031, 0x032, 0x033, 0x034, 0x035, 0x036, 0x037].map (got 0x24)
      = [some 0, some 0, some 1, some 0, some 0, some 1, some 0, some 0]) ∧
    ([0x030, 0x031, 0x032, 0x033, 0x034, 0x035, 0x036, 0x037].map (got 0x5A)
      = [some 0, some 1, some 0, some 1, some 1, some 0, some 1, some 0]) := by decide

/-- The SET table's columns for P = 0xC3, `VAL` 0 and 1 (41_status_flags.md section 4). -/
theorem test_set :
    ([0x040, 0x041, 0x042, 0x043, 0x044, 0x045, 0x046, 0x047].map (pAfter 0xC3)
      = [some 0xC2, some 0xC1, some 0xC3, some 0xC3, some 0xC3, some 0xC3, some 0x83, some 0x43]) ∧
    ([0x048, 0x049, 0x04A, 0x04B, 0x04C, 0x04D, 0x04E, 0x04F].map (pAfter 0xC3)
      = [some 0xC3, some 0xC3, some 0xC7, some 0xCB, some 0xD3, some 0xE3, some 0xC3, some 0xC3]) := by decide

theorem test_set_u_clears : pAfter 0x24 0x045 = some 0x04 ∧ pAfter 0xFF 0x045 = some 0xDF := by decide

theorem test_res : after S1 0x100 0 = some (⟨0x55, 0xAA, 0x33, 0x7D, 0xFFFC, 0xC7⟩, ⟨0, false, false⟩) ∧
    after { S1 with sp := 0x02, p := 0xFB } 0x110 0 = some (⟨0x55, 0xAA, 0x33, 0xFF, 0xFFFC, 0xFF⟩, ⟨0, false, false⟩) := by
  decide

/-- SP wraps; D and a clear bit 5 change nothing of it. -/
theorem test_res_wrap :
    after { S1 with sp := 0x00, p := 0x08 } 0x1FF 0xFFFF
      = some (⟨0x55, 0xAA, 0x33, 0xFD, 0xFFFC, 0x0C⟩, ⟨0, false, false⟩) ∧
    after { S1 with sp := 0x03, p := 0x00 } 0x100 0
      = some (⟨0x55, 0xAA, 0x33, 0x00, 0xFFFC, 0x04⟩, ⟨0, false, false⟩) := by decide

theorem test_por : after S1 0x200 0 = some (⟨0x00, 0x00, 0x00, 0xFD, 0xFFFC, 0x24⟩, ⟨0, false, false⟩) ∧
    after S1 0x225 0x00FF = some (⟨0x00, 0x00, 0x00, 0xFD, 0xFFFC, 0x24⟩, ⟨0, false, false⟩) := by decide

theorem test_reserved_word :
    after S1 0x028 0x0077 = some (S1.registers, ⟨0, false, true⟩) ∧ after S1 0x0FF 0x1234 = some (S1.registers, ⟨0, false, true⟩) := by
  decide

/-! ## The assembler: what R48 refuses, and what text it reads -/

theorem test_wellFormed_wr : Line.wellFormed (.wr .a 0x100) = false ∧ Line.wellFormed (.wr .x 0x100) = false ∧
    Line.wellFormed (.wr .y 0x100) = false ∧ Line.wellFormed (.wr .sp 0x100) = false ∧
    Line.wellFormed (.wr .pc 0x10000) = false ∧ Line.wellFormed (.wr .p 0x100) = false := by decide

theorem test_wellFormed_set : Line.wellFormed (.set .c 2) = false ∧ Line.wellFormed (.setp 0x100) = false := by decide

theorem test_wellFormed_fits : Line.wellFormed (.wr .a 0xFF) = true ∧ Line.wellFormed (.wr .pc 0xFFFF) = true ∧
    Line.wellFormed (.set .c 1) = true ∧ Line.wellFormed (.setp 0xFF) = true := by decide

theorem test_assembleText :
    assembleText "WR.PC 0x1234 ; a comment\n\nSE.C\nSETP 0b101\nSET.I 0\nGETP" =
      some [⟨0x024, 0x1234⟩, ⟨0x048, 0⟩, ⟨0x025, 5⟩, ⟨0x042, 0⟩, ⟨0x015, 0⟩] := by decide +kernel

theorem test_assembleText_refuses :
    assembleText "WR.A 256" = none ∧ assembleText "SET.C 2" = none ∧ assembleText "WR.A" = none ∧
    assembleText "RD.A 1" = none ∧ assembleText "RD.Q" = none := by decide +kernel

/-! ## Hypotheses of the statements, met -/

/-- S1 with a list of requests still to be presented. -/
def asked (rs : List Request) : State := { S1 with inputs := rs }

theorem witness_DecodingFollowsTheOpcodeTable :
    (0x024#10 &&& (Instr.wrPC 7).row.mask = (Instr.wrPC 7).row.value ∧ (Instr.wrPC 7).writeOperand? = some 7) ∧
    (0x04F#10 &&& (Instr.setN true).row.mask = (Instr.setN true).row.value ∧ (Instr.setN true).valOperand? = some true ∧
      (0x04F#10).getLsbD 3 = true) ∧
    (0x048#10 &&& (Instr.setC true).row.mask = (Instr.setC true).row.value ∧
      0x048#10 &&& (Instr.setC false).row.mask = (Instr.setC false).row.value) := by decide

theorem witness_ReservedWordsAreThoseOfTheTable :
    (asked [⟨0x0FF, 0x1234⟩]).inputs = ⟨0x0FF, 0x1234⟩ :: [] ∧ decode ⟨0x0FF, 0x1234⟩ = .reserved .opReserved := by decide

theorem witness_DecodePriorityIsPorThenResThenCommand :
    (asked [⟨0x3FF, 0xFFFF⟩]).inputs = ⟨0x3FF, 0xFFFF⟩ :: [] ∧ (0x3FF#10).getLsbD 9 = true ∧
    (asked [⟨0x1FF, 0⟩]).inputs = ⟨0x1FF, 0⟩ :: [] ∧ (0x1FF#10).getLsbD 9 = false ∧ (0x1FF#10).getLsbD 8 = true ∧
    (asked [⟨0x0FF, 0⟩]).inputs = ⟨0x0FF, 0⟩ :: [] ∧ (0x0FF#10).getLsbD 9 = false ∧ (0x0FF#10).getLsbD 8 = false ∧
    (asked [⟨0x000, 0⟩]).inputs = ⟨0x000, 0⟩ :: [] ∧ (0x000#10).getLsbD 9 = false ∧ (0x000#10).getLsbD 8 = false := by decide

theorem witness_IgnoredInputBitsChangeNothing :
    ((0x200#10).getLsbD 9 = true ∧ (0x3FF#10).getLsbD 9 = true) ∧
    ((0x100#10).extractLsb' 8 2 = 1#2 ∧ (0x1FF#10).extractLsb' 8 2 = 1#2) ∧
    ((0x010#10).extractLsb' 4 4 ≠ 2#4 ∧ (0x048#10).extractLsb' 4 4 ≠ 2#4) ∧
    (0x020#10 ≠ 0x024#10 ∧ (0x1277#16).extractLsb' 0 8 = (0x0077#16).extractLsb' 0 8) := by decide

theorem witness_PlacedTableWordIsTheNextRequestRun :
    decodeTableWord 10 0x3FF = some .por ∧ decodeTableWord 16 0x025 = some (.wrP 0) := by decide

theorem witness_StepRunsTheDecodedRequest :
    (asked [⟨0x020, 0x1277⟩]).inputs = ⟨0x020, 0x1277⟩ :: [] ∧ decode ⟨0x020, 0x1277⟩ = .instr (.wrA 0x1277) := by decide

theorem witness_ReservedRequestChangesNoRegister :
    (asked [⟨0x016, 0⟩, ⟨0x010, 0⟩]).inputs = ⟨0x016, 0⟩ :: [⟨0x010, 0⟩] ∧ decode ⟨0x016, 0⟩ = .reserved .rdNoSuchRegister ∧
    [(⟨0x010, 0⟩ : Request)] = ⟨0x010, 0⟩ :: [] ∧ decode ⟨0x010, 0⟩ = .instr .rdA := by decide

theorem witness_OutputsOfAStepFollowTheTable :
    (asked [⟨0x013, 0⟩]).inputs = ⟨0x013, 0⟩ :: [] ∧ decode ⟨0x013, 0⟩ = .instr .rdSP ∧
    Instr.rdSP.returns (asked []) = some 0x80 ∧ decode ⟨0x04F, 0⟩ = .instr (.setN true) ∧
    (Instr.setN true).returns (asked []) = none ∧ decode ⟨0x001, 0⟩ = .reserved .nopWithFields := by decide

theorem witness_OutputsOfAStepFollowTheTable_two_states :
    (asked [⟨0x013, 0⟩]).registers = (asked [⟨0x013, 0⟩, ⟨0x200, 0⟩]).registers ∧
    (asked [⟨0x013, 0⟩]).inputs.head? = (asked [⟨0x013, 0⟩, ⟨0x200, 0⟩]).inputs.head? ∧
    (∃ t₁, step (asked [⟨0x013, 0⟩]) = .next t₁) ∧ ∃ t₂, step (asked [⟨0x013, 0⟩, ⟨0x200, 0⟩]) = .next t₂ :=
  ⟨rfl, rfl, ⟨_, rfl⟩, _, rfl⟩

theorem witness_EveryStepKeepsTheOutputsLegal :
    ({ asked [⟨0x014, 0⟩] with outputs := [⟨0, false, true⟩] } : State).outputsLegal = true ∧
    ∃ t, step { asked [⟨0x014, 0⟩] with outputs := [⟨0, false, true⟩] } = .next t := ⟨by decide, _, rfl⟩

theorem witness_ErrIsRecordedExactlyForReservedRequests :
    (asked [⟨0x050, 0⟩]).inputs = ⟨0x050, 0⟩ :: [] ∧ (∃ t, step (asked [⟨0x050, 0⟩]) = .next t) ∧
    (asked [⟨0x04F, 0⟩]).inputs = ⟨0x04F, 0⟩ :: [] ∧ ∃ t, step (asked [⟨0x04F, 0⟩]) = .next t :=
  ⟨rfl, ⟨_, rfl⟩, rfl, _, rfl⟩

theorem witness_SilentRequestsMayBeInsertedAnywhere :
    (∀ i reg, decode ⟨0x000, 5⟩ = .instr i → i.writes reg = false) ∧
    (∀ i reg, decode ⟨0x010, 5⟩ = .instr i → i.writes reg = false) ∧
    (∀ i reg, decode ⟨0x0FF, 5⟩ = .instr i → i.writes reg = false) ∧ decode ⟨0x000, 5⟩ = .instr .nop := by
  refine ⟨fun i reg h => ?_, fun i reg h => ?_, fun i reg h => ?_, by decide⟩
  · cases h; rfl
  · cases h; rfl
  · cases h

theorem witness_ReadReturnsTheLatestWrite :
    (∀ q ∈ [(⟨0x021, 5⟩ : Request), ⟨0x016, 0⟩], ∀ i, decode q = .instr i → i.writes .a = false) ∧
    (asked [⟨0x020, 0x1277⟩, ⟨0x021, 5⟩, ⟨0x016, 0⟩, ⟨0x010, 0⟩]).inputs =
      encode (.wrOf .a 0x1277) :: ([⟨0x021, 5⟩, ⟨0x016, 0⟩] ++ encode (.rdOf .a) :: []) := by
  refine ⟨fun q hq i h => ?_, by decide⟩
  simp only [List.mem_cons, List.not_mem_nil, or_false] at hq
  rcases hq with rfl | rfl <;> cases h
  rfl

/-- The same with nothing between the write and the read, for PC, whose result is the whole word. -/
theorem witness_ReadReturnsTheLatestWrite_at_once :
    (∀ q ∈ ([] : List Request), ∀ i, decode q = .instr i → i.writes .pc = false) ∧
    (asked [⟨0x024, 0xFFFF⟩, ⟨0x014, 0⟩]).inputs = encode (.wrOf .pc 0xFFFF) :: ([] ++ encode (.rdOf .pc) :: []) :=
  ⟨fun _ h => (List.not_mem_nil h).elim, rfl⟩

theorem witness_OnlyTheListedWritersChangeARegister :
    (asked [⟨0x100, 0⟩]).inputs = ⟨0x100, 0⟩ :: [] ∧
    ∃ t, step (asked [⟨0x100, 0⟩]) = .next t ∧ readReg .sp t ≠ readReg .sp (asked [⟨0x100, 0⟩]) :=
  ⟨rfl, _, rfl, by decide⟩

theorem witness_SixWritesInAnyOrderBuildAnyState :
    List.Perm [encode (.wrP 0x00C3), encode (.wrPC 0x1234), encode (.wrSP 0x0080), encode (.wrY 0x0033),
        encode (.wrX 0x00AA), encode (.wrA 0x0055)]
      [encode (.wrA (S1.registers.a.zeroExtend 16)), encode (.wrX (S1.registers.x.zeroExtend 16)),
        encode (.wrY (S1.registers.y.zeroExtend 16)), encode (.wrSP (S1.registers.sp.zeroExtend 16)),
        encode (.wrPC S1.registers.pc), encode (.wrP (S1.registers.p.zeroExtend 16))] := by decide

theorem witness_SettersAreOrthogonal :
    Flag.u ≠ Flag.c ∧ (asked [⟨0x048, 0⟩, ⟨0x035, 0⟩]).inputs = encode (.setOf .c true) :: encode (.getOf .u) :: [] ∧
    Flag.z ≠ Flag.n ∧ (asked [⟨0x047, 0⟩, ⟨0x031, 0⟩]).inputs = encode (.setOf .n false) :: encode (.getOf .z) :: [] := by
  decide

theorem witness_SetThenGetReturnsTheValueSet :
    (asked [⟨0x048, 0⟩, ⟨0x030, 0⟩]).inputs = encode (.setOf .c true) :: encode (.getOf .c) :: [] ∧
    (asked [⟨0x047, 0⟩, ⟨0x015, 0⟩]).inputs = encode (.setOf .n false) :: encode .rdP :: [] := by decide

theorem witness_SettersChangeTheirBitAlone :
    (Instr.setC, 0) ∈ [(Instr.setC, 0), (Instr.setZ, 1), (Instr.setI, 2), (Instr.setD, 3), (Instr.setB, 4), (Instr.setU, 5),
      (Instr.setV, 6), (Instr.setN, 7)] ∧
    (Instr.setN, 7) ∈ [(Instr.setC, 0), (Instr.setZ, 1), (Instr.setI, 2), (Instr.setD, 3), (Instr.setB, 4), (Instr.setU, 5),
      (Instr.setV, 6), (Instr.setN, 7)] := by simp

theorem witness_SettersEquivalentToRawAccess : Flag.c ≠ Flag.n ∧ Flag.i ≠ Flag.u := by decide

/-- Bit 5 cleared by a raw write, and by its own setter. -/
theorem witness_BitFiveIsClearedOnlyOnRequest :
    (∃ t, step { asked [⟨0x025, 0x00DF⟩] with p := 0xFF } = .next t ∧
      ({ asked [⟨0x025, 0x00DF⟩] with p := 0xFF } : State).p.getLsbD 5 = true ∧ t.p.getLsbD 5 = false) ∧
    (∃ t, step { asked [⟨0x045, 0⟩] with p := 0x24 } = .next t ∧
      ({ asked [⟨0x045, 0⟩] with p := 0x24 } : State).p.getLsbD 5 = true ∧ t.p.getLsbD 5 = false) ∧ Flag.c ≠ Flag.u :=
  ⟨⟨_, rfl, by decide, by decide⟩, ⟨_, rfl, by decide, by decide⟩, by decide⟩

/-- Bit 2 changed by RES, by SET.I 1 and by WR.P; bit 0 by POR. -/
theorem witness_FlagsChangeOnlyByTheirListedWriters :
    (∃ t, step (asked [⟨0x100, 0⟩]) = .next t ∧ t.p.getLsbD (flagPos .i) ≠ S1.p.getLsbD (flagPos .i)) ∧
    (∃ t, step (asked [⟨0x04A, 0⟩]) = .next t ∧ t.p.getLsbD (flagPos .i) ≠ S1.p.getLsbD (flagPos .i)) ∧
    (∃ t, step (asked [⟨0x025, 0x00FF⟩]) = .next t ∧ t.p.getLsbD (flagPos .i) ≠ S1.p.getLsbD (flagPos .i)) ∧
    (∃ t, step (asked [⟨0x200, 0⟩]) = .next t ∧ t.p.getLsbD (flagPos .c) ≠ S1.p.getLsbD (flagPos .c)) :=
  ⟨⟨_, rfl, by decide⟩, ⟨_, rfl, by decide⟩, ⟨_, rfl, by decide⟩, _, rfl, by decide⟩

theorem witness_PowerOnGivesTheDefaults :
    (0x200#10).getLsbD 9 = true ∧ (0x3FF#10).getLsbD 9 = true ∧
    ∃ t u, exec .por (asked []) = .next t ∧ exec .por t = .next u := ⟨by decide, by decide, _, _, rfl, rfl⟩

theorem witness_ResetLineChangesSpPcAndIAlone :
    (0x100#10).getLsbD 9 = false ∧ (0x100#10).getLsbD 8 = true ∧ (0x1FF#10).getLsbD 9 = false ∧ (0x1FF#10).getLsbD 8 = true := by
  decide

/-- One reset, the fewest the statement takes, and 256 of them, where SP is back. -/
theorem witness_RepeatedResetLowersSpByThreeEach :
    ([⟨0x1FF, 0xFFFF⟩] ≠ ([] : List Request) ∧
      (∀ r ∈ [(⟨0x1FF, 0xFFFF⟩ : Request)], r.req.getLsbD 9 = false ∧ r.req.getLsbD 8 = true) ∧
      (asked [⟨0x1FF, 0xFFFF⟩]).inputs = [⟨0x1FF, 0xFFFF⟩] ++ []) ∧
    (List.replicate 256 (⟨0x100, 0⟩ : Request) ≠ [] ∧
      (∀ r ∈ List.replicate 256 (⟨0x100, 0⟩ : Request), r.req.getLsbD 9 = false ∧ r.req.getLsbD 8 = true) ∧
      (asked (List.replicate 256 ⟨0x100, 0⟩)).inputs = List.replicate 256 ⟨0x100, 0⟩ ++ [] ∧
      256 ∣ (List.replicate 256 (⟨0x100, 0⟩ : Request)).length) := by
  refine ⟨by decide, List.ne_nil_of_length_pos ?_, fun r hr => ?_, (List.append_nil _).symm, ?_⟩
  · rw [List.length_replicate]
    decide
  · rw [List.eq_of_mem_replicate hr]
    decide
  · rw [List.length_replicate]

/-- Two states that differ in PC and in P.I. -/
theorem witness_ResetLineForgetsPcAndI :
    ({ S1 with pc := 0x8000, p := 0xC7 } : State) ≠ S1 ∧
    (∀ k < 8, k ≠ 2 → ({ S1 with pc := 0x8000, p := 0xC7 } : State).p.getLsbD k = S1.p.getLsbD k) ∧
    ({ S1 with pc := 0x8000, p := 0xC7 } : State).sp = S1.sp := by decide

theorem witness_EffectsAreVisibleToTheNextRequest :
    (asked [⟨0x023, 0x0001⟩, ⟨0x100, 0⟩]).inputs = encode (.wrSP 0x0001) :: encode .res :: [] ∧
    (asked [⟨0x025, 0x0000⟩, ⟨0x04F, 0⟩]).inputs = encode (.wrP 0) :: encode (.setOf .n true) :: [] ∧
    (asked [⟨0x025, 0x00FF⟩, ⟨0x037, 0⟩]).inputs = encode (.wrP 0x00FF) :: encode (.getOf .n) :: [] ∧
    (asked [⟨0x100, 0⟩, ⟨0x032, 0⟩]).inputs = encode .res :: encode (.getOf .i) :: [] ∧
    (asked [⟨0x200, 0⟩, ⟨0x035, 0⟩]).inputs = encode .por :: encode (.getOf .u) :: [] ∧
    (asked [⟨0x100, 0⟩, ⟨0x013, 0⟩]).inputs = encode .res :: encode (.rdOf .sp) :: [] ∧
    (asked [⟨0x200, 0⟩, ⟨0x014, 0⟩]).inputs = encode .por :: encode (.rdOf .pc) :: [] := by decide

theorem witness_HoldingPowerOnIsHarmless :
    [(⟨0x200, 0⟩ : Request), ⟨0x3FF, 0xFFFF⟩] ≠ [] ∧
    (∀ r ∈ [(⟨0x200, 0⟩ : Request), ⟨0x3FF, 0xFFFF⟩], r.req.getLsbD 9 = true) ∧
    (asked [⟨0x200, 0⟩, ⟨0x3FF, 0xFFFF⟩, ⟨0x010, 0⟩]).inputs = [⟨0x200, 0⟩, ⟨0x3FF, 0xFFFF⟩] ++ [⟨0x010, 0⟩] := by decide

/-- The largest values that assemble, and the smallest that do not. -/
theorem witness_AssemblyRejectsValuesThatDoNotFit :
    assemble (.wr .a 0xFF) = some ⟨0x020, 0x00FF⟩ ∧ assemble (.wr .a 0x100) = none ∧
    assemble (.wr .pc 0xFFFF) = some ⟨0x024, 0xFFFF⟩ ∧ assemble (.wr .pc 0x10000) = none ∧
    assemble (.set .n 1) = some ⟨0x04F, 0⟩ ∧ assemble (.set .n 0) = some ⟨0x047, 0⟩ ∧ assemble (.set .n 2) = none := by decide

end Sys2Proof.Tests
end

section
/-! The status word across a request (10_state.md R16 to R26): the 31 requests by operation class, what each class leaves
in P, and the one claim about bit 5. -/

namespace Sys2Proof.Machine

/-! ## The requests by operation class -/

/-- Case analysis on a request by its operation class: POR, RES, NOP, or RD, WR, GET and SET at a register or a flag
(30_encoding.md R44). -/
theorem instr_by_class {motive : Instr → Prop} (por : motive .por) (res : motive .res) (nop : motive .nop)
    (rd : ∀ r, motive (.rdOf r)) (wr : ∀ r w, motive (.wrOf r w)) (get : ∀ f, motive (.getOf f))
    (set : ∀ f v, motive (.setOf f v)) (i : Instr) : motive i := by
  cases i with
  | por => exact por
  | res => exact res
  | nop => exact nop
  | rdA => exact rd .a
  | rdX => exact rd .x
  | rdY => exact rd .y
  | rdSP => exact rd .sp
  | rdPC => exact rd .pc
  | rdP => exact rd .p
  | wrA w => exact wr .a w
  | wrX w => exact wr .x w
  | wrY w => exact wr .y w
  | wrSP w => exact wr .sp w
  | wrPC w => exact wr .pc w
  | wrP w => exact wr .p w
  | getC => exact get .c
  | getZ => exact get .z
  | getI => exact get .i
  | getD => exact get .d
  | getB => exact get .b
  | getU => exact get .u
  | getV => exact get .v
  | getN => exact get .n
  | setC v => exact set .c v
  | setZ v => exact set .z v
  | setI v => exact set .i v
  | setD v => exact set .d v
  | setB v => exact set .b v
  | setU v => exact set .u v
  | setV v => exact set .v v
  | setN v => exact set .n v

/-- POR, RES and NOP in terms of their operations, as `exec_rdOf` and its siblings say it of the other classes. -/
theorem exec_por (s : State) : exec .por s = .next ((powerOn s).drive .silent) := rfl

theorem exec_res (s : State) : exec .res s = .next ((takeReset s).drive .silent) := rfl

theorem exec_nop (s : State) : exec .nop s = .next (s.drive .silent) := rfl

/-! ## What each shared operation leaves in P -/

@[simp] theorem powerOn_p (s : State) : (powerOn s).p = Config.defaultP := rfl

/-- To P, the reset event is SET.I 1: forcing bit 2 with an OR is the read-modify-write of that bit (R91). -/
@[simp] theorem takeReset_p (s : State) : (takeReset s).p = setFlag .i true s.p := by
  change s.p ||| 0x04#8 = (s.p &&& ~~~0x04#8) ||| 0x04#8
  ext k hk
  simp only [BitVec.getElem_or, BitVec.getElem_and, BitVec.getElem_not]
  cases (0x04#8)[k] <;> simp

@[simp] theorem writeReg_p (r : Reg) (w : Word) (s : State) :
    (writeReg r w s).p = if r = .p then byteOperand w else s.p := by
  cases r <;> rfl

@[simp] theorem writeFlag_p (f : Flag) (v : Bool) (s : State) : (writeFlag f v s).p = setFlag f v s.p := rfl

/-- A SET leaves its value in its own flag's bit. -/
theorem setFlag_getLsbD_self (f : Flag) (v : Bool) (p : Byte) : (setFlag f v p).getLsbD (flagPos f) = v := by
  rw [setFlag_getLsbD, if_pos rfl]

/-- A SET keeps every other flag's bit (R86). -/
theorem setFlag_getLsbD_of_ne {f g : Flag} (h : f ≠ g) (v : Bool) (p : Byte) :
    (setFlag f v p).getLsbD (flagPos g) = p.getLsbD (flagPos g) := by
  rw [setFlag_getLsbD, if_neg fun hpos => h (flagPos_injective hpos.symm)]

/-- The operand of a byte write holds the low eight bits of the port (R46). -/
theorem byteOperand_getLsbD (w : Word) {k : Nat} (hk : k < 8) : (byteOperand w).getLsbD k = w.getLsbD k := by
  simp [byteOperand, hk]

/-! ## What a request can leave in P -/

/-- All that a request can do to P: leave it, or be one of its writers, POR, RES, WR.P and SET, with the value each gives
it (10_state.md R16). -/
theorem exec_p_cases {i : Instr} {s t : State} (h : exec i s = .next t) :
    t.p = s.p ∨ (i = .por ∧ t.p = Config.defaultP) ∨ (i = .res ∧ t.p = setFlag .i true s.p) ∨
      (∃ w, i = .wrP w ∧ t.p = byteOperand w) ∨ ∃ f v, i = .setOf f v ∧ t.p = setFlag f v s.p := by
  cases i using instr_by_class with
  | por =>
    cases (exec_por s).symm.trans h
    exact .inr (.inl ⟨rfl, rfl⟩)
  | res =>
    cases (exec_res s).symm.trans h
    exact .inr (.inr (.inl ⟨rfl, takeReset_p s⟩))
  | nop =>
    cases (exec_nop s).symm.trans h
    exact .inl rfl
  | rd r =>
    cases (exec_rdOf r s).symm.trans h
    exact .inl rfl
  | wr r w =>
    cases (exec_wrOf r w s).symm.trans h
    by_cases hr : r = .p
    · subst hr
      exact .inr (.inr (.inr (.inl ⟨w, rfl, rfl⟩)))
    · exact .inl (by simp [hr])
  | get f =>
    cases (exec_getOf f s).symm.trans h
    exact .inl rfl
  | set f v =>
    cases (exec_setOf f v s).symm.trans h
    exact .inr (.inr (.inr (.inr ⟨f, v, rfl, rfl⟩)))

/-! ## Bit 5 -/

/-- A SET of another flag keeps bit 5, the U flag's. -/
theorem setFlag_getLsbD_five_of_ne {f : Flag} (hf : f ≠ .u) (v : Bool) (p : Byte) :
    (setFlag f v p).getLsbD 5 = p.getLsbD 5 := setFlag_getLsbD_of_ne hf v p

/-- The two requests that clear bit 5 (R26). -/
theorem exec_clears_bit_five {i : Instr} {s t : State} (h : exec i s = .next t) (hs : s.p.getLsbD 5 = true)
    (ht : t.p.getLsbD 5 = false) : (∃ w, i = .wrP w ∧ w.getLsbD 5 = false) ∨ i = .setU false := by
  obtain hp | ⟨rfl, hp⟩ | ⟨rfl, hp⟩ | ⟨w, rfl, hp⟩ | ⟨f, v, rfl, hp⟩ := exec_p_cases h <;> rw [hp] at ht
  case inl => exact absurd (hs.symm.trans ht) (by decide)
  case inr.inl => exact absurd ht (by decide)
  case inr.inr.inl =>
    rw [setFlag_getLsbD_five_of_ne (by decide), hs] at ht
    cases ht
  case inr.inr.inr.inl => exact .inl ⟨w, rfl, by rwa [byteOperand_getLsbD w (by decide)] at ht⟩
  case inr.inr.inr.inr =>
    by_cases hf : f = .u
    · subst hf
      have hv : v = false := (setFlag_getLsbD_self .u v s.p).symm.trans ht
      exact .inr (by rw [hv]; rfl)
    · rw [setFlag_getLsbD_five_of_ne hf, hs] at ht
      cases ht

/-- A step clears bit 5 only by those two requests; a reserved word leaves P alone (R101). -/
theorem step_clears_bit_five {s t : State} {r : Request} {rest : List Request} (hin : s.inputs = r :: rest)
    (h : step s = .next t) (hs : s.p.getLsbD 5 = true) (ht : t.p.getLsbD 5 = false) :
    (∃ w, decode r = .instr (.wrP w) ∧ w.getLsbD 5 = false) ∨ decode r = .instr (.setU false) := by
  obtain ⟨r', rest', hin', hstep⟩ := step_cases h
  obtain ⟨rfl, rfl⟩ := List.cons.inj (hin.symm.trans hin')
  obtain ⟨i, hd, hexec⟩ | ⟨why, -, rfl⟩ := hstep
  · obtain ⟨w, rfl, hw⟩ | rfl := exec_clears_bit_five hexec hs ht
    · exact .inl ⟨w, hd, hw⟩
    · exact .inr hd
  · exact absurd (hs.symm.trans ht) (by decide)

/-- Settles O30. The step clause is `step_clears_bit_five`; bit 5 is no invariant because SET.U 0 from reset clears it. -/
theorem bitFiveIsClearedOnlyOnRequest : Obligations.BitFiveIsClearedOnlyOnRequest := by
  unfold Obligations.BitFiveIsClearedOnlyOnRequest
  refine ⟨by decide, fun s t r rest hin h => step_clears_bit_five hin h, fun s => ⟨_, exec_por s, ?por⟩,
    fun s => ⟨_, exec_res s, ?res⟩, fun f v s hf => ⟨_, exec_setOf f v s, ?set⟩, encode (.setU false), ?cleared⟩
  case por =>
    rw [State.drive_p, powerOn_p]
    decide
  case res => rw [State.drive_p, takeReset_p, setFlag_getLsbD_five_of_ne (by decide)]
  case set => rw [State.drive_p, writeFlag_p, setFlag_getLsbD_five_of_ne hf]
  case cleared => exact ⟨_, run_succ_of_step 0 rfl, by decide⟩

end Sys2Proof.Machine
end

section
/-! The decoder's priority and its reserved words, and the outputs of a step (30_encoding.md R44, R45, R47). -/

namespace Sys2Proof

/-! ## The fields of a request word as numbers (R41) -/

theorem cmdField_toNat (w : ReqWord) :
    (cmdField w).toNat = 16 * (opField w).toNat + 8 * (valField w).toNat + (selField w).toNat := by
  simp only [cmdField, opField, valField, selField, BitVec.extractLsb'_toNat, BitVec.getLsbD, Nat.toNat_testBit,
    Nat.shiftRight_eq_div_pow]
  omega

theorem toNat_eq_fields (w : ReqWord) :
    w.toNat = 512 * (porBit w).toNat + 256 * (resBit w).toNat + (cmdField w).toNat := by
  have hw := w.isLt
  simp only [porBit, resBit, cmdField, BitVec.extractLsb'_toNat, BitVec.getLsbD, Nat.toNat_testBit,
    Nat.shiftRight_eq_div_pow]
  omega

/-- Select numbers 0 to 5 name a register, 6 and 7 name none (R42). -/
theorem regOfSel_eq_none_iff : ∀ {sel : BitVec 3}, regOfSel sel = none ↔ 6 ≤ sel.toNat := by decide

/-! ## The reserved words (R45) -/

/-- The command values of each row of R45's table; for a word below 256 the word is its own `CMD`. -/
def Reserved.covers : Reserved → Nat → Prop
  | .nopWithFields, c => 0x01 ≤ c ∧ c ≤ 0x0F
  | .rdNoSuchRegister, c => 0x16 ≤ c ∧ c ≤ 0x17
  | .rdWithVal, c => 0x18 ≤ c ∧ c ≤ 0x1F
  | .wrNoSuchRegister, c => 0x26 ≤ c ∧ c ≤ 0x27
  | .wrWithVal, c => 0x28 ≤ c ∧ c ≤ 0x2F
  | .getWithVal, c => 0x38 ≤ c ∧ c ≤ 0x3F
  | .opReserved, c => 0x50 ≤ c ∧ c ≤ 0xFF

/-- The rows of R45's table are disjoint. -/
theorem Reserved.eq_of_covers {why why' : Reserved} {c : Nat} (h : why.covers c) (h' : why'.covers c) : why = why' := by
  cases why <;> cases why' <;> simp only [covers] at h h' <;> first | rfl | omega

/-- No row of R45's table holds one of the 37 command values of section 4, or a word with POR or RES. -/
theorem Reserved.not_covers {c : Nat} (h : c = 0 ∨ (0x10 ≤ c ∧ c ≤ 0x15) ∨ (0x20 ≤ c ∧ c ≤ 0x25) ∨
    (0x30 ≤ c ∧ c ≤ 0x37) ∨ (0x40 ≤ c ∧ c ≤ 0x4F) ∨ 0x100 ≤ c) (why : Reserved) : ¬ why.covers c := by
  cases why <;> simp only [covers] <;> omega

/-- Where one row covers the number, its reason is the only one. -/
theorem reserved_eq_iff_covers {why why' : Reserved} {c : Nat} (h : why.covers c) :
    Decoded.reserved why = .reserved why' ↔ why'.covers c :=
  ⟨fun heq => Decoded.reserved.inj heq ▸ h, fun h' => congrArg _ (Reserved.eq_of_covers h h')⟩

/-- Where no row covers the number, a request agrees with the table. -/
theorem instr_eq_reserved_iff_covers {i : Instr} {why : Reserved} {c : Nat} (h : ∀ why : Reserved, ¬ why.covers c) :
    Decoded.instr i = .reserved why ↔ why.covers c :=
  ⟨fun heq => Decoded.noConfusion heq, fun hc => absurd hc (h why)⟩

/-- Section 4 and R45 as one table: the answers that `CMD` = `c` may have with `wdata` = `d` on the port, by class. -/
inductive CommandRow (d : Word) (c : Nat) : Decoded → Prop where
  | nop (hc : c = 0) : CommandRow d c (.instr .nop)
  | rd (r : Reg) (hc : 0x10 ≤ c ∧ c ≤ 0x15) : CommandRow d c (.instr (.rdOf r))
  | wr (r : Reg) (hc : 0x20 ≤ c ∧ c ≤ 0x25) : CommandRow d c (.instr (.wrOf r d))
  | get (f : Flag) (hc : 0x30 ≤ c ∧ c ≤ 0x37) : CommandRow d c (.instr (.getOf f))
  | set (f : Flag) (v : Bool) (hc : 0x40 ≤ c ∧ c ≤ 0x4F) : CommandRow d c (.instr (.setOf f v))
  | reserved (why : Reserved) (hc : why.covers c) : CommandRow d c (.reserved why)

/-- The arm of RD and of WR answers from the table, `row` being the class's own row at command value `base`. -/
theorem CommandRow.of_register_arm {d : Word} {c base : Nat} {val : Bool} {sel : BitVec 3} {instr : Reg → Instr}
    {withVal noSuchRegister : Reserved} (hc : c = base + 8 * val.toNat + sel.toNat)
    (row : ∀ r, base ≤ c ∧ c ≤ base + 5 → CommandRow d c (.instr (instr r)))
    (hwithVal : base + 8 ≤ c ∧ c ≤ base + 15 → withVal.covers c)
    (hnoSuch : base + 6 ≤ c ∧ c ≤ base + 7 → noSuchRegister.covers c) :
    CommandRow d c (if val then .reserved withVal
      else match regOfSel sel with
        | some r => .instr (instr r)
        | none => .reserved noSuchRegister) := by
  have hsel := sel.isLt
  have hreg := regOfSel_eq_none_iff (sel := sel)
  cases val with
  | true => exact .reserved withVal (hwithVal (by simp only [Bool.toNat_true] at hc; omega))
  | false =>
    simp only [Bool.toNat_false] at hc
    cases hr : regOfSel sel with
    | some r => exact row r (by simp [hr] at hreg; omega)
    | none => exact .reserved noSuchRegister (hnoSuch (by simp [hr] at hreg; omega))

/-- The decoder answers every command from its row of the table. -/
theorem decodeCmd_row (w : ReqWord) (d : Word) : CommandRow d (cmdField w).toNat (decodeCmd w d) := by
  have hcmd := cmdField_toNat w
  have hop := (opField w).isLt
  have hval := (valField w).toNat_le
  have hsel := (selField w).isLt
  unfold decodeCmd
  split
  case h_1 hclass =>
    cases hv : valField w <;> simp only [hv, Bool.toNat_true, Bool.toNat_false] at hcmd
    case true => exact .reserved .nopWithFields ⟨by omega, by omega⟩
    case false =>
      split
      · next hfields =>
        have hsel0 : (selField w).toNat ≠ 0 := by simpa [BitVec.toNat_eq] using hfields
        exact .reserved .nopWithFields ⟨by omega, by omega⟩
      · next hfields =>
        have hsel0 : selField w = 0 := by simpa using hfields
        exact .nop (by simp [hcmd, hclass, hsel0])
  case h_2 hclass => exact .of_register_arm (base := 0x10) (by omega) .rd id id
  case h_3 hclass => exact .of_register_arm (base := 0x20) (by omega) .wr id id
  case h_4 hclass =>
    cases hv : valField w <;> simp only [hv, Bool.toNat_true, Bool.toNat_false] at hcmd
    case true => exact .reserved .getWithVal ⟨by omega, by omega⟩
    case false => exact .get _ ⟨by omega, by omega⟩
  case h_5 hclass => exact .set _ _ ⟨by omega, by omega⟩
  case h_6 h0 h1 h2 h3 h4 =>
    simp only [imp_false] at h0 h1 h2 h3 h4
    exact .reserved .opReserved ⟨by omega, by omega⟩

/-- A command is reserved, and for the reason given, exactly where R45's table has its value. -/
theorem decodeCmd_eq_reserved_iff (w : ReqWord) (d : Word) (why : Reserved) :
    decodeCmd w d = .reserved why ↔ why.covers (cmdField w).toNat := by
  have hrow := decodeCmd_row w d
  generalize decodeCmd w d = answer at hrow ⊢
  cases hrow with
  | reserved why' hc => exact reserved_eq_iff_covers hc
  | _ => exact instr_eq_reserved_iff_covers (Reserved.not_covers (by omega))

/-! ## Decode priority (R44) -/

theorem decode_of_porBit {r : Request} (h : porBit r.req = true) : decode r = .instr .por := if_pos h

theorem decode_of_resBit {r : Request} (hpor : porBit r.req = false) (hres : resBit r.req = true) :
    decode r = .instr .res := by
  simp [decode, hpor, hres]

theorem decode_of_command {r : Request} (hpor : porBit r.req = false) (hres : resBit r.req = false) :
    decode r = decodeCmd r.req r.wdata := by
  simp [decode, hpor, hres]

theorem decodeCmd_ne_por_and_ne_res {w : ReqWord} {d : Word} {i : Instr} (h : decodeCmd w d = .instr i) :
    i ≠ .por ∧ i ≠ .res := by
  have hrow := h ▸ decodeCmd_row w d
  cases hrow with
  | nop => simp
  | rd r => cases r <;> simp [Instr.rdOf]
  | wr r => cases r <;> simp [Instr.wrOf]
  | get f => cases f <;> simp [Instr.getOf]
  | set f v => cases f <;> simp [Instr.setOf]

/-- A word is reserved, and for the reason given, exactly where R45's table has it. -/
theorem decode_eq_reserved_iff (r : Request) (why : Reserved) :
    decode r = .reserved why ↔ why.covers r.req.toNat := by
  have hw := toNat_eq_fields r.req
  cases hpor : porBit r.req with
  | true =>
    rw [decode_of_porBit hpor]
    simp only [hpor, Bool.toNat_true] at hw
    exact instr_eq_reserved_iff_covers (Reserved.not_covers (by omega))
  | false =>
    cases hres : resBit r.req with
    | true =>
      rw [decode_of_resBit hpor hres]
      simp only [hres, Bool.toNat_true] at hw
      exact instr_eq_reserved_iff_covers (Reserved.not_covers (by omega))
    | false =>
      have hcmd : r.req.toNat = (cmdField r.req).toNat := by simpa [hpor, hres] using hw
      rw [decode_of_command hpor hres, decodeCmd_eq_reserved_iff, hcmd]

namespace Machine

/-! ## The step at a request, by what it decodes to -/

theorem step_of_instr {s : State} {r : Request} {rest : List Request} {i : Instr} (hin : s.inputs = r :: rest)
    (hd : decode r = .instr i) : step s = exec i (s.setInputs rest) := by
  rw [step_of_inputs hin, perform, hd]

theorem step_of_reserved {s : State} {r : Request} {rest : List Request} {why : Reserved} (hin : s.inputs = r :: rest)
    (hd : decode r = .reserved why) : step s = .next ((s.setInputs rest).drive .error) := by
  rw [step_of_inputs hin, perform, hd, raiseReserved]

/-- Settles O3. Each range is a row of `decode_eq_reserved_iff`. -/
theorem reservedWordsAreThoseOfTheTable : Obligations.ReservedWordsAreThoseOfTheTable := by
  unfold Obligations.ReservedWordsAreThoseOfTheTable
  refine ⟨fun r => ?_, fun s r rest why hin hd => step_of_reserved hin hd⟩
  have hiff := decode_eq_reserved_iff r
  refine ⟨hiff _, hiff _, hiff _, hiff _, hiff _, hiff _, hiff _, ?_⟩
  cases decode r with
  | instr i => exact .inl ⟨i, rfl⟩
  | reserved why => exact .inr ⟨why, rfl⟩

/-- Settles O4. The three clauses are the decoder's three branches, each run by the step. -/
theorem decodePriorityIsPorThenResThenCommand : Obligations.DecodePriorityIsPorThenResThenCommand := by
  unfold Obligations.DecodePriorityIsPorThenResThenCommand
  intro s r rest hin
  refine ⟨fun hpor => step_of_instr hin (decode_of_porBit hpor),
    fun hpor hres => step_of_instr hin (decode_of_resBit hpor hres), fun hpor hres => ?_⟩
  cases hd : decode r with
  | instr i =>
    obtain ⟨hi_por, hi_res⟩ := decodeCmd_ne_por_and_ne_res ((decode_of_command hpor hres).symm.trans hd)
    exact .inl ⟨i, hi_por, hi_res, rfl, step_of_instr hin hd⟩
  | reserved why => exact .inr ⟨why, rfl, step_of_reserved hin hd⟩

/-! ## The outputs of a step (R47) -/

/-- The outputs R47's table gives for a request performed at `s`: its result where it returns one, all 0 otherwise. -/
def outputOf (i : Instr) (s : State) : Output := (i.returns s).elim .silent .result

/-- R47's table at the requests of a class that returns a result. -/
theorem returns_rdOf (r : Reg) (s : State) : (Instr.rdOf r).returns s = some (readReg r s) := by cases r <;> rfl

theorem returns_getOf (f : Flag) (s : State) : (Instr.getOf f).returns s = some (readFlag f s) := by
  rw [readFlag, bitResult_eq_ite]
  cases f <;> rfl

/-- R47's table at the requests of a class that returns nothing. -/
theorem returns_wrOf (r : Reg) (w : Word) (s : State) : (Instr.wrOf r w).returns s = none := by cases r <;> rfl

theorem returns_setOf (f : Flag) (v : Bool) (s : State) : (Instr.setOf f v).returns s = none := by cases f <;> rfl

/-- What a request returns does not depend on what the host has still to present. -/
theorem returns_setInputs (i : Instr) (s : State) (rs : List Request) : i.returns (s.setInputs rs) = i.returns s := by
  cases i <;> rfl

/-- Every request drives the outputs of R47's table, from the registers before it. -/
theorem exec_outputs (i : Instr) (s : State) : ∃ t, exec i s = .next t ∧ t.outputs = outputOf i s :: s.outputs := by
  cases i using instr_by_class with
  | por => exact ⟨_, exec_por s, rfl⟩
  | res => exact ⟨_, exec_res s, rfl⟩
  | nop => exact ⟨_, exec_nop s, rfl⟩
  | rd r => exact ⟨_, exec_rdOf r s, by simp [outputOf, returns_rdOf]⟩
  | wr r w => exact ⟨_, exec_wrOf r w s, by simp [outputOf, returns_wrOf]⟩
  | get f => exact ⟨_, exec_getOf f s, by simp [outputOf, returns_getOf]⟩
  | set f v => exact ⟨_, exec_setOf f v s, by simp [outputOf, returns_setOf, writeFlag]⟩

/-- A step at a request drives the outputs of R47's table, from the registers before the step. -/
theorem step_outputs_of_instr {s : State} {r : Request} {rest : List Request} {i : Instr} (hin : s.inputs = r :: rest)
    (hd : decode r = .instr i) : ∃ t, step s = .next t ∧ t.outputs = outputOf i s :: s.outputs := by
  rw [step_of_instr hin hd]
  obtain ⟨t, hexec, hout⟩ := exec_outputs i (s.setInputs rest)
  exact ⟨t, hexec, by rw [hout, outputOf, outputOf, returns_setInputs, State.setInputs_outputs]⟩

/-- Steps at one request from states that agree on the registers drive the same outputs and leave the same registers. -/
theorem step_congr {s₁ s₂ t₁ t₂ : State} (hreg : s₁.registers = s₂.registers)
    (hin : s₁.inputs.head? = s₂.inputs.head?) (h₁ : step s₁ = .next t₁) (h₂ : step s₂ = .next t₂) :
    t₁.outputs.head? = t₂.outputs.head? ∧ t₁.registers = t₂.registers := by
  obtain ⟨r, rest₁, hin₁, -⟩ := step_cases h₁
  obtain ⟨r₂, rest₂, hin₂, -⟩ := step_cases h₂
  obtain rfl : r = r₂ := by simpa [hin₁, hin₂] using hin
  cases hd : decode r with
  | instr i =>
    obtain ⟨u₁, u₂, o, hu₁, hu₂, hregs, -, -, hout₁, hout₂⟩ :=
      exec_congr i (s := s₁.setInputs rest₁) (s' := s₂.setInputs rest₂) hreg
    cases h₁.symm.trans ((step_of_instr hin₁ hd).trans hu₁)
    cases h₂.symm.trans ((step_of_instr hin₂ hd).trans hu₂)
    exact ⟨by rw [hout₁, hout₂]; rfl, hregs⟩
  | reserved why =>
    cases h₁.symm.trans (step_of_reserved hin₁ hd)
    cases h₂.symm.trans (step_of_reserved hin₂ hd)
    exact ⟨rfl, hreg⟩

/-- Settles O13. The table is `outputOf` at a request and the error output at a reserved word;
`step_congr` is the rest. -/
theorem outputsOfAStepFollowTheTable : Obligations.OutputsOfAStepFollowTheTable := by
  unfold Obligations.OutputsOfAStepFollowTheTable
  refine ⟨fun s r rest hin => ?_, fun s₁ s₂ t₁ t₂ => step_congr⟩
  cases hd : decode r with
  | instr i =>
    obtain ⟨t, hstep, hout⟩ := step_outputs_of_instr hin hd
    refine ⟨t, hstep, ?returned, ?silent, nofun⟩
    case returned =>
      rintro _ v ⟨⟩ hv
      rw [hout, outputOf, hv]
      rfl
    case silent =>
      rintro _ ⟨⟩ hv
      rw [hout, outputOf, hv]
      rfl
  | reserved why => exact ⟨_, step_of_reserved hin hd, nofun, nofun, fun _ _ => rfl⟩

end Machine

end Sys2Proof
end

section
/-! The register access requests (40_register_access.md R51 to R62): each is its class's one decoding fact and one meaning,
taken at its register. -/

namespace Sys2Proof

/-! ## The canonical words of RD and WR with any `wdata` on the port (30_encoding.md section 4, R46) -/

/-- RD ignores the port. -/
theorem decode_rdOf (r : Reg) (wdata : Word) :
    decode ⟨(encode (.rdOf r)).req, wdata⟩ = .instr (.rdOf r) := by
  have hword : decode ⟨(encode (.rdOf r)).req, 0⟩ = .instr (.rdOf r) := by cases r <;> decide
  rw [decode_eq_withOperand, hword]
  cases r <;> rfl

/-- The word of a WR does not depend on the operand. -/
theorem encode_wrOf_req (r : Reg) (wdata : Word) : (encode (.wrOf r wdata)).req = (encode (.wrOf r 0)).req := by
  cases r <;> rfl

/-- WR takes the port whole as its operand. -/
theorem decode_wrOf (r : Reg) (wdata : Word) :
    decode ⟨(encode (.wrOf r wdata)).req, wdata⟩ = .instr (.wrOf r wdata) := by
  have hword : decode ⟨(encode (.wrOf r 0)).req, 0⟩ = .instr (.wrOf r 0) := by cases r <;> decide
  rw [encode_wrOf_req, decode_eq_withOperand, hword]
  cases r <;> rfl

namespace Machine

/-- Settles O17. The meaning drives `readReg` and leaves the rest of the state, by `exec_rdOf`. -/
theorem readsReturnTheRegisterZeroExtended : Obligations.ReadsReturnTheRegisterZeroExtended := by
  unfold Obligations.ReadsReturnTheRegisterZeroExtended
  exact ⟨fun w => ⟨decode_rdOf .a w, decode_rdOf .x w, decode_rdOf .y w, decode_rdOf .sp w, decode_rdOf .pc w,
      decode_rdOf .p w⟩,
    fun s => ⟨exec_rdOf .a s, exec_rdOf .x s, exec_rdOf .y s, exec_rdOf .sp s, exec_rdOf .pc s, exec_rdOf .p s⟩⟩

/-- Settles O18. The meaning is `writeReg`, by `exec_wrOf`, and at an 8-bit register that assigns `byteOperand w`. -/
theorem byteWritesAssignTheLowByte : Obligations.ByteWritesAssignTheLowByte := by
  unfold Obligations.ByteWritesAssignTheLowByte
  intro w s
  exact ⟨⟨decode_wrOf .a w, decode_wrOf .x w, decode_wrOf .y w, decode_wrOf .sp w, decode_wrOf .p w⟩,
    exec_wrOf .a w s, exec_wrOf .x w s, exec_wrOf .y w s, exec_wrOf .sp w s, exec_wrOf .p w s⟩

/-- Settles O19. The meaning is `writeReg`, by `exec_wrOf`, and at PC that assigns the port whole. -/
theorem writePcAssignsAllSixteenBits : Obligations.WritePcAssignsAllSixteenBits := by
  unfold Obligations.WritePcAssignsAllSixteenBits
  exact fun w s => ⟨decode_wrOf .pc w, exec_wrOf .pc w s⟩

end Machine

end Sys2Proof
end

section
/-! The status flag requests (41_status_flags.md R70 to R88): GET and SET at every flag's word, what a SET followed by
another request leaves and returns, and the status word's bits against its raw accessors. -/

namespace Sys2Proof

open Machine

/-! ## The words of GET and SET with any `wdata` on the port (30_encoding.md section 4, R46) -/

/-- GET ignores the port. -/
theorem decode_getOf (f : Flag) (wdata : Word) : decode ⟨(encode (.getOf f)).req, wdata⟩ = .instr (.getOf f) := by
  have hword : decode ⟨(encode (.getOf f)).req, 0⟩ = .instr (.getOf f) := by cases f <;> decide
  rw [decode_eq_withOperand, hword]
  cases f <;> rfl

/-- SET ignores the port: its operand stands in `VAL`. -/
theorem decode_setOf (f : Flag) (v : Bool) (wdata : Word) :
    decode ⟨(encode (.setOf f v)).req, wdata⟩ = .instr (.setOf f v) := by
  have hword : decode ⟨(encode (.setOf f v)).req, 0⟩ = .instr (.setOf f v) := by cases f <;> cases v <;> decide
  rw [decode_eq_withOperand, hword]
  cases f <;> rfl

/-- The canonical requests, whose `wdata` is 0. -/
theorem decode_encode_getOf (f : Flag) : decode (encode (.getOf f)) = .instr (.getOf f) :=
  decode_getOf f _

theorem decode_encode_setOf (f : Flag) (v : Bool) : decode (encode (.setOf f v)) = .instr (.setOf f v) :=
  decode_setOf f v _

/-- The word of SET.f v as a number: `OP` 4, v in `VAL`, the flag's position in `SEL` (R41, R43). -/
theorem encode_setOf_req (f : Flag) (v : Bool) :
    (encode (.setOf f v)).req = BitVec.ofNat 10 (0x040 + 8 * v.toNat + flagPos f) := by
  cases f <;> cases v <;> rfl

namespace Machine

/-! ## The bits of P (R86 to R88) -/

/-- A GET result is the stored bit (R47). -/
theorem readFlag_eq_ite (f : Flag) (s : State) :
    readFlag f s = if s.p.getLsbD (flagPos f) then 1 else 0 := bitResult_eq_ite _

/-- R70 to R77 at any flag: GET drives the stored bit and leaves the rest of the state. -/
theorem exec_getOf_eq_ite (f : Flag) (s : State) :
    exec (.getOf f) s = .next (s.drive ⟨if s.p.getLsbD (flagPos f) then 1 else 0, true, false⟩) := by
  rw [exec_getOf, readFlag_eq_ite, Output.result]

@[simp] theorem readFlag_drive (f : Flag) (s : State) (o : Output) : readFlag f (s.drive o) = readFlag f s := rfl

@[simp] theorem readFlag_setInputs (f : Flag) (s : State) (rs : List Request) :
    readFlag f (s.setInputs rs) = readFlag f s := rfl

/-- A flag reads as the value set (R87). -/
theorem readFlag_writeFlag_self (f : Flag) (v : Bool) (s : State) : readFlag f (writeFlag f v s) = bitResult v := by
  rw [readFlag, getFlag, writeFlag_p, setFlag_getLsbD_self]

/-- Every other flag reads as before (R86). -/
theorem readFlag_writeFlag_of_ne {f g : Flag} (h : f ≠ g) (v : Bool) (s : State) :
    readFlag g (writeFlag f v s) = readFlag g s := by
  rw [readFlag, getFlag, writeFlag_p, setFlag_getLsbD_of_ne h, readFlag, getFlag]

/-- SET's read-modify-write in the spec's literal form (R78 to R85). -/
theorem setFlag_eq (f : Flag) (v : Bool) (p : Byte) :
    setFlag f v p = (p &&& ~~~(1#8 <<< flagPos f)) ||| ((if v then 1#8 else 0#8) <<< flagPos f) := by
  cases v <;> rfl

/-- Writes of two different bits commute. -/
theorem setFlag_comm {f g : Flag} (h : f ≠ g) (v w : Bool) (p : Byte) :
    setFlag g w (setFlag f v p) = setFlag f v (setFlag g w p) := by
  have hpos : flagPos f ≠ flagPos g := fun heq => h (flagPos_injective heq)
  apply BitVec.eq_of_getLsbD_eq
  intro k _
  simp only [setFlag_getLsbD]
  by_cases hk : k = flagPos f <;> simp [hk, hpos]

/-- Of two writes of one bit the later wins. -/
theorem setFlag_setFlag (f : Flag) (v w : Bool) (p : Byte) : setFlag f w (setFlag f v p) = setFlag f w p := by
  apply BitVec.eq_of_getLsbD_eq
  intro k _
  simp only [setFlag_getLsbD]
  split <;> rfl

theorem writeFlag_comm {f g : Flag} (h : f ≠ g) (v w : Bool) (s : State) :
    writeFlag g w (writeFlag f v s) = writeFlag f v (writeFlag g w s) :=
  congrArg s.setP (setFlag_comm h v w s.p)

theorem writeFlag_writeFlag (f : Flag) (v w : Bool) (s : State) :
    writeFlag f w (writeFlag f v s) = writeFlag f w s :=
  congrArg s.setP (setFlag_setFlag f v w s.p)

/-- SET is the raw write of the word with that one bit changed (R88). -/
theorem writeFlag_eq_writeReg (f : Flag) (v : Bool) (s : State) :
    writeFlag f v s = writeReg .p (byteResult (setFlag f v s.p)) s := by
  rw [writeReg, byteOperand_byteResult, writeFlag]

/-- RD.P shows the stored bits (R56). -/
theorem byteResult_getLsbD (p : Byte) (f : Flag) : (byteResult p).getLsbD (flagPos f) = p.getLsbD (flagPos f) := by
  have hpos := flagPos_lt f
  rw [byteResult, BitVec.getLsbD_setWidth, decide_eq_true (by omega), Bool.true_and]

/-! ## Two requests in a row -/

/-- A run of one step. -/
theorem run_one (s : State) : run 1 s = step s := by
  cases h : step s with
  | next t => rw [run_succ_of_step 0 h, run_zero]
  | fault r => exact run_succ_of_fault 0 h
  | refused r => exact run_succ_of_refused 0 h

/-- No meaning takes anything from what the host has still to present. -/
theorem exec_inputs {i : Instr} {s t : State} (h : exec i s = .next t) : t.inputs = s.inputs := by
  obtain ⟨t', _, _, h', _, _, hin, _⟩ := exec_congr i (rfl : s.registers = s.registers)
  cases h.symm.trans h'
  exact hin

/-- The second of two requests is performed in the state that the first leaves. -/
theorem run_two_of_instr {s t : State} {r₁ r₂ : Request} {rest : List Request} {i j : Instr}
    (hin : s.inputs = r₁ :: r₂ :: rest) (hd₁ : decode r₁ = .instr i) (hd₂ : decode r₂ = .instr j)
    (ht : exec i (s.setInputs (r₂ :: rest)) = .next t) : run 2 s = exec j (t.setInputs rest) := by
  rw [run_succ_of_step 1 ((step_of_instr hin hd₁).trans ht), run_one, step_of_instr (exec_inputs ht) hd₂]

/-- The same with a SET first, whose effect and output are known. -/
theorem run_set_then {f : Flag} {v : Bool} {s : State} {r : Request} {rest : List Request} {i : Instr}
    (hin : s.inputs = encode (.setOf f v) :: r :: rest) (hd : decode r = .instr i) :
    run 2 s = exec i (((writeFlag f v s).drive .silent).setInputs rest) :=
  (run_two_of_instr hin (decode_encode_setOf f v) hd (exec_setOf f v (s.setInputs (r :: rest))) :)

/-- One SET request changes P, and the record shows a silent step. -/
theorem run_set {f : Flag} {v : Bool} {s : State} {rest : List Request}
    (hin : s.inputs = encode (.setOf f v) :: rest) :
    run 1 s = .next (((writeFlag f v s).setInputs rest).drive .silent) := by
  rw [run_one, step_of_instr hin (decode_encode_setOf f v)]
  exact exec_setOf f v _

/-- Two SET requests in a row change P twice, and the record shows two silent steps. -/
theorem run_set_set {f g : Flag} {v w : Bool} {s : State} {rest : List Request}
    (hin : s.inputs = encode (.setOf f v) :: encode (.setOf g w) :: rest) :
    run 2 s = .next ((((writeFlag g w (writeFlag f v s)).setInputs rest).drive .silent).drive .silent) :=
  (run_set_then hin (decode_encode_setOf g w)).trans (exec_setOf g w _)

/-! ## The statements -/

/-- The eight setters and their bit positions are `setOf` and `flagPos` at the eight flags. -/
theorem setter_eq_setOf {mk : Bool → Instr} {k : Nat}
    (h : (mk, k) ∈ [(Instr.setC, 0), (Instr.setZ, 1), (Instr.setI, 2), (Instr.setD, 3), (Instr.setB, 4), (Instr.setU, 5),
      (Instr.setV, 6), (Instr.setN, 7)]) : ∃ f, mk = Instr.setOf f ∧ k = flagPos f := by
  simp only [List.mem_cons, List.not_mem_nil, or_false, Prod.mk.injEq] at h
  obtain h | h | h | h | h | h | h | h := h
  exacts [⟨.c, h⟩, ⟨.z, h⟩, ⟨.i, h⟩, ⟨.d, h⟩, ⟨.b, h⟩, ⟨.u, h⟩, ⟨.v, h⟩, ⟨.n, h⟩]

/-- Settles O26. The new P is `setFlag f v s.p`, whose bits `setFlag_getLsbD` gives. -/
theorem settersChangeTheirBitAlone : Obligations.SettersChangeTheirBitAlone := by
  unfold Obligations.SettersChangeTheirBitAlone
  intro mk k hmem v w s
  obtain ⟨f, rfl, rfl⟩ := setter_eq_setOf hmem
  rw [← encode_setOf_req]
  exact ⟨decode_setOf f v w, setFlag f v s.p, exec_setOf f v s, fun j _ => setFlag_getLsbD f v s.p j⟩

/-- Settles O27. The GET reads a flag that the SET before it kept. -/
theorem settersAreOrthogonal : Obligations.SettersAreOrthogonal := by
  unfold Obligations.SettersAreOrthogonal
  intro f g v s rest hne hin
  refine ⟨_, (run_set_then hin (decode_encode_getOf g)).trans (exec_getOf g _), ?_⟩
  rw [readFlag_setInputs, readFlag_drive, readFlag_writeFlag_of_ne hne.symm, readFlag_eq_ite]
  rfl

/-- Settles O28. GET reads the bit just set; RD.P shows the whole of `setFlag`, whose literal form is `setFlag_eq`. -/
theorem setThenGetReturnsTheValueSet : Obligations.SetThenGetReturnsTheValueSet := by
  unfold Obligations.SetThenGetReturnsTheValueSet
  refine fun f v s rest => ⟨fun hin => ?get, fun hin => ?read⟩
  case get =>
    refine ⟨_, (run_set_then hin (decode_encode_getOf f)).trans (exec_getOf f _), ?_⟩
    rw [readFlag_setInputs, readFlag_drive, readFlag_writeFlag_self, bitResult_eq_ite]
    rfl
  case read =>
    refine ⟨_, (run_set_then hin (decode_rdOf .p _)).trans (exec_rdOf .p _), ?_⟩
    rw [readReg_setInputs, readReg_drive, ← setFlag_eq]
    rfl

/-- Settles O29. The clauses are `writeFlag_eq_writeReg`, `byteResult_getLsbD`, `writeFlag_comm` and
`writeFlag_writeFlag`. -/
theorem settersEquivalentToRawAccess : Obligations.SettersEquivalentToRawAccess := by
  unfold Obligations.SettersEquivalentToRawAccess
  refine ⟨fun f v s => ?raw, fun f s => ⟨_, _, _, _, exec_getOf f s, exec_rdOf .p s, rfl, rfl, ?bits⟩,
    fun f g v₁ v₂ s hne => ⟨_, run_set_set rfl, ?commute⟩, fun f v₁ v₂ s => ⟨_, _, run_set_set rfl, run_set rfl, ?last⟩⟩
  case raw =>
    rw [exec_setOf, writeFlag_eq_writeReg, setFlag_eq]
    exact (exec_wrOf .p _ s).symm
  case bits =>
    change readFlag f s = if (byteResult s.p).getLsbD (flagPos f) then 1 else 0
    rw [readFlag_eq_ite, byteResult_getLsbD]
  case commute =>
    rw [run_set_set rfl, writeFlag_comm hne]
    rfl
  case last =>
    rw [writeFlag_writeFlag]
    rfl

/-- Settles O25. Each row is `decode_getOf` and `exec_getOf_eq_ite` at its flag. -/
theorem gettersReturnTheStoredBit : Obligations.GettersReturnTheStoredBit := by
  unfold Obligations.GettersReturnTheStoredBit
  exact ⟨fun w => ⟨decode_getOf .c w, decode_getOf .z w, decode_getOf .i w, decode_getOf .d w, decode_getOf .b w,
      decode_getOf .u w, decode_getOf .v w, decode_getOf .n w⟩,
    fun s => ⟨exec_getOf_eq_ite .c s, exec_getOf_eq_ite .z s, exec_getOf_eq_ite .i s, exec_getOf_eq_ite .d s,
      exec_getOf_eq_ite .b s, exec_getOf_eq_ite .u s, exec_getOf_eq_ite .v s, exec_getOf_eq_ite .n s⟩⟩

end Machine

end Sys2Proof
end

section
/-! POR and RES (42_reset_ops.md R90 to R94): what each leaves in every register, and where the two agree and differ. -/

namespace Sys2Proof.Machine

/-! ## What the two events leave in each register -/

@[simp] theorem powerOn_a (s : State) : (powerOn s).a = 0x00 := rfl
@[simp] theorem powerOn_x (s : State) : (powerOn s).x = 0x00 := rfl
@[simp] theorem powerOn_y (s : State) : (powerOn s).y = 0x00 := rfl
@[simp] theorem powerOn_sp (s : State) : (powerOn s).sp = 0xFD := rfl
@[simp] theorem powerOn_pc (s : State) : (powerOn s).pc = 0xFFFC := rfl

@[simp] theorem takeReset_a (s : State) : (takeReset s).a = s.a := rfl
@[simp] theorem takeReset_x (s : State) : (takeReset s).x = s.x := rfl
@[simp] theorem takeReset_y (s : State) : (takeReset s).y = s.y := rfl
@[simp] theorem takeReset_sp (s : State) : (takeReset s).sp = s.sp - 3 := rfl
@[simp] theorem takeReset_pc (s : State) : (takeReset s).pc = 0xFFFC := rfl

/-- The subtraction from SP wraps: there is no underflow trap (R91). -/
theorem takeReset_sp_toNat (s : State) : (takeReset s).sp.toNat = (s.sp.toNat + 256 - 3) % 256 := by
  rw [takeReset_sp]
  bv_omega

/-- RES gives POR's SP from one value alone (R94). -/
theorem takeReset_sp_eq_default_iff (s : State) : (takeReset s).sp = 0xFD ↔ s.sp = 0x00 := by
  rw [takeReset_sp]
  bv_omega

/-- The reset event sets the interrupt-disable bit. -/
theorem takeReset_p_getLsbD_two (s : State) : (takeReset s).p.getLsbD 2 = true := by
  rw [takeReset_p]
  exact setFlag_getLsbD_self .i true s.p

/-- The reset event keeps the seven other bits of P (R92). -/
theorem takeReset_p_getLsbD_of_ne {k : Nat} (hk : k ≠ 2) (s : State) :
    (takeReset s).p.getLsbD k = s.p.getLsbD k := by
  rw [takeReset_p, setFlag_getLsbD]
  exact if_neg hk

/-- POR leaves the registers of a run's start (R28, R90). -/
theorem exec_por_registers {s t : State} (h : exec .por s = .next t) : t.registers = State.reset.registers := by
  cases (exec_por s).symm.trans h
  obtain ⟨hregs, -, -⟩ := powerOn_parts s
  rw [State.drive_registers, hregs]

/-! ## The statements -/

/-- A state that RES and POR take to different values of A, X, Y and SP and of every bit of P but I: no register is 0x00,
and P is the complement of POR's 0x24. -/
def farFromDefaults : State := { State.reset with a := 0x55, x := 0xAA, y := 0x33, sp := 0x80, p := 0xDB }

/-- Settles O33. The word is `decode_of_resBit`; the new SP and P are those of `takeReset`. -/
theorem resetLineChangesSpPcAndIAlone : Obligations.ResetLineChangesSpPcAndIAlone := by
  unfold Obligations.ResetLineChangesSpPcAndIAlone
  exact ⟨fun r hpor hres => decode_of_resBit hpor hres,
    fun s => ⟨(takeReset s).sp, (takeReset s).p, exec_res s, takeReset_sp_toNat s, takeReset_p_getLsbD_two s,
      fun k _ hk => takeReset_p_getLsbD_of_ne hk s⟩⟩

/-- Settles O35. The values are those of `takeReset` and `powerOn`, and `farFromDefaults` tells the two apart. -/
theorem resetLineIsNotPowerOn : Obligations.ResetLineIsNotPowerOn := by
  unfold Obligations.ResetLineIsNotPowerOn
  refine ⟨fun s => ⟨_, _, exec_res s, exec_por s, ?values⟩,
    farFromDefaults, _, _, exec_res _, exec_por _, ?differ⟩
  case values =>
    simp only [State.drive_a, State.drive_x, State.drive_y, State.drive_sp, State.drive_pc, State.drive_p]
    exact ⟨takeReset_pc s, powerOn_pc s, takeReset_p_getLsbD_two s, by rw [powerOn_p]; decide,
      takeReset_a s, takeReset_x s, takeReset_y s, powerOn_a s, powerOn_x s, powerOn_y s,
      powerOn_sp s, takeReset_sp s, takeReset_sp_eq_default_iff s,
      fun k _ hk => ⟨takeReset_p_getLsbD_of_ne hk s, by rw [powerOn_p]; rfl⟩⟩
  case differ => decide

/-- Settles O32. The word is `decode_of_porBit`; a second POR finds the registers that `exec_por_registers` gives. -/
theorem powerOnGivesTheDefaults : Obligations.PowerOnGivesTheDefaults := by
  unfold Obligations.PowerOnGivesTheDefaults
  exact ⟨fun r hpor => decode_of_porBit hpor, exec_por, rfl,
    fun s t u ht hu => (exec_por_registers hu).trans (exec_por_registers ht).symm⟩

end Sys2Proof.Machine
end

section
/-! What a step can raise (60_exceptions.md R100, R101): no request raises anything, and a reserved word raises `err` in its
own step alone. -/

namespace Sys2Proof.Machine

/-- No row of R47's table drives `err`. -/
@[simp] theorem outputOf_err (i : Instr) (s : State) : (outputOf i s).err = false := by
  rw [outputOf]
  cases i.returns s with
  | none => rfl
  | some v => rfl

/-- The output that a request adds to the record is one of R47's table, so it does not drive `err`. -/
theorem err_of_exec_outputs {i : Instr} {s t : State} {o : Output} (h : exec i s = .next t)
    (hout : t.outputs = o :: s.outputs) : o.err = false := by
  obtain ⟨t', h', hout'⟩ := exec_outputs i s
  cases h.symm.trans h'
  obtain ⟨rfl, -⟩ := List.cons.inj (hout.symm.trans hout')
  exact outputOf_err i s

/-- An error on the record is a fault of the run. -/
theorem errRaised_drive_error (s : State) : (s.drive .error).errRaised = true := rfl

/-- A request that follows a reserved word is performed in the state before both, with the error output on the record. -/
theorem run_two_of_reserved_instr {s : State} {r₁ r₂ : Request} {rest : List Request} {why : Reserved} {i : Instr}
    (hin : s.inputs = r₁ :: r₂ :: rest) (hd₁ : decode r₁ = .reserved why) (hd₂ : decode r₂ = .instr i) :
    run 2 s = exec i ((s.setInputs rest).drive .error) := by
  rw [run_succ_of_step 1 (step_of_reserved hin hd₁), run_one, step_of_instr rfl hd₂]
  rfl

/-- Settles O9. The output is R47's, which `outputOf_err` shows to be no error. -/
theorem everyRequestCompletesWithoutError : Obligations.EveryRequestCompletesWithoutError := by
  unfold Obligations.EveryRequestCompletesWithoutError
  intro i s
  obtain ⟨t, hexec, hout⟩ := exec_outputs i s
  exact ⟨t, outputOf i s, hexec, exec_inputs hexec, hout, outputOf_err i s⟩

/-- Settles O10. The error output changes no register, so by `exec_congr` the next request has the effect and the output it
has without the reserved word before it. -/
theorem reservedRequestChangesNoRegister : Obligations.ReservedRequestChangesNoRegister := by
  unfold Obligations.ReservedRequestChangesNoRegister
  refine ⟨fun s r rest why hin hd => ⟨?reserved, ?following⟩, ?request⟩
  case reserved =>
    exact ⟨_, step_of_reserved hin hd, rfl, rfl, rfl, errRaised_drive_error _⟩
  case following =>
    rintro r' rest' i rfl hd'
    obtain ⟨t, u, o, ht, hu, hregs, -, -, hout_t, hout_u⟩ :=
      exec_congr i (s := (s.setInputs rest').drive .error) (s' := s.setInputs rest') rfl
    exact ⟨t, u, o, (run_two_of_reserved_instr hin hd hd').trans ht, hu, hregs, hout_t, hout_u,
      err_of_exec_outputs hu hout_u⟩
  case request =>
    intro s r rest i hin hd
    obtain ⟨t, hstep, hout⟩ := step_outputs_of_instr hin hd
    exact ⟨t, outputOf i s, hstep, hout, outputOf_err i s⟩

end Sys2Proof.Machine
end

section
/-! The two reset-like entries side by side (70_reset_and_hazards.md R110, R111): the registers each one leaves, and runs that
begin with them. -/

namespace Sys2Proof.Machine

/-! ## Runs that begin with a reset -/

/-- A run whose first request is RES has taken the reset event once. -/
theorem run_res {s : State} {rest : List Request} (hin : s.inputs = encode .res :: rest) :
    run 1 s = .next ((takeReset (s.setInputs rest)).drive .silent) := by
  rw [run_one, step_of_instr hin (decode_of_resBit rfl rfl)]
  exact exec_res _

/-- A run whose first two requests are RES has taken the reset event twice. -/
theorem run_res_res {s : State} {rest : List Request} (hin : s.inputs = encode .res :: encode .res :: rest) :
    run 2 s = .next ((takeReset ((takeReset (s.setInputs rest)).drive .silent)).drive .silent) :=
  (run_two_of_instr hin (decode_of_resBit rfl rfl) (decode_of_resBit rfl rfl) (exec_res _)).trans (exec_res _)

/-- A run whose first request is POR has been powered on, and nothing more. -/
theorem run_por {s : State} {rest : List Request} (hin : s.inputs = encode .por :: rest) :
    run 1 s = .next ((powerOn (s.setInputs rest)).drive .silent) := by
  rw [run_one, step_of_instr hin (decode_of_porBit rfl)]
  exact exec_por _

/-! ## The statements -/

/-- Settles O36. POR leaves the registers of a run's start (`exec_por_registers`), RES those of `takeReset_parts`. -/
theorem bothResetsDefineEveryRegister : Obligations.BothResetsDefineEveryRegister := by
  unfold Obligations.BothResetsDefineEveryRegister
  refine ⟨rfl, fun s => ⟨_, exec_por s, ?por⟩, fun s => ⟨_, exec_res s, ?res⟩⟩
  case por => exact exec_por_registers (exec_por s)
  case res =>
    obtain ⟨hregs, -, -⟩ := takeReset_parts s
    exact (State.drive_registers _ _).trans hregs

/-- Settles O37. Each RES subtracts 3 (`takeReset_sp`) from the default 0xFD, and POR assigns 0xFD (`powerOn_sp`). -/
theorem firstResetFromTheDefaultsGivesFA : Obligations.FirstResetFromTheDefaultsGivesFA := by
  unfold Obligations.FirstResetFromTheDefaultsGivesFA
  have hsp : State.reset.sp = 0xFD := rfl
  refine ⟨hsp, ⟨_, run_res rfl, ?once⟩, ⟨_, run_res_res rfl, ?twice⟩, ⟨_, run_por rfl, ?por⟩⟩
  case once =>
    rw [State.drive_sp, takeReset_sp, State.setInputs_sp, hsp]
    decide
  case twice =>
    rw [State.drive_sp, takeReset_sp, State.drive_sp, takeReset_sp, State.setInputs_sp, hsp]
    decide
  case por => rw [State.drive_sp, powerOn_sp]

end Sys2Proof.Machine
end

section
/-! The opcode table against the decoder (30_encoding.md section 4): the canonical word of every request decodes to it,
every word decodes by the row it selects, and the bits a request ignores change nothing (93_implementation_defined.md U3). -/

namespace Sys2Proof

open Machine

/-! ## The operands of each class (R46) -/

@[simp] theorem writeOperand?_rdOf (r : Reg) : (Instr.rdOf r).writeOperand? = none := by cases r <;> rfl
@[simp] theorem writeOperand?_wrOf (r : Reg) (w : Word) : (Instr.wrOf r w).writeOperand? = some w := by cases r <;> rfl
@[simp] theorem writeOperand?_getOf (f : Flag) : (Instr.getOf f).writeOperand? = none := by cases f <;> rfl
@[simp] theorem writeOperand?_setOf (f : Flag) (v : Bool) : (Instr.setOf f v).writeOperand? = none := by cases f <;> rfl

@[simp] theorem valOperand?_rdOf (r : Reg) : (Instr.rdOf r).valOperand? = none := by cases r <;> rfl
@[simp] theorem valOperand?_wrOf (r : Reg) (w : Word) : (Instr.wrOf r w).valOperand? = none := by cases r <;> rfl
@[simp] theorem valOperand?_getOf (f : Flag) : (Instr.getOf f).valOperand? = none := by cases f <;> rfl
@[simp] theorem valOperand?_setOf (f : Flag) (v : Bool) : (Instr.setOf f v).valOperand? = some v := by cases f <;> rfl

/-! ## The rows of each class (section 4) -/

theorem row_rdOf (r : Reg) : (Instr.rdOf r).row = ⟨(encode (.rdOf r)).req, 0x3FF⟩ := by cases r <;> rfl
theorem row_wrOf (r : Reg) (w : Word) : (Instr.wrOf r w).row = ⟨(encode (.wrOf r w)).req, 0x3FF⟩ := by cases r <;> rfl
theorem row_getOf (f : Flag) : (Instr.getOf f).row = ⟨(encode (.getOf f)).req, 0x3FF⟩ := by cases f <;> rfl
theorem row_setOf (f : Flag) (v : Bool) : (Instr.setOf f v).row = ⟨(encode (.setOf f false)).req, 0x3F7⟩ := by
  cases f <;> rfl

/-! ## Every request from its canonical word -/

theorem decode_encode_wrOf (r : Reg) (w : Word) : decode (encode (.wrOf r w)) = .instr (.wrOf r w) := by
  have hword : encode (.wrOf r w) = ⟨(encode (.wrOf r w)).req, w⟩ := by cases r <;> rfl
  rw [hword, decode_wrOf]

theorem decode_encode (i : Instr) : decode (encode i) = .instr i := by
  cases i using instr_by_class with
  | por => exact decode_of_porBit rfl
  | res => exact decode_of_resBit rfl rfl
  | nop => exact decode_of_command rfl rfl
  | rd r => exact decode_rdOf r _
  | wr r w => exact decode_encode_wrOf r w
  | get f => exact decode_encode_getOf f
  | set f v => exact decode_encode_setOf f v

/-- Settles O1. -/
theorem decodeOfEncodeIsTheRequest : Obligations.DecodeOfEncodeIsTheRequest := by
  unfold Obligations.DecodeOfEncodeIsTheRequest
  exact decode_encode

/-! ## A command's word from the request it decodes to -/

/-- The word of a command, neither POR nor RES presented, with the given `OP`, `VAL` and `SEL` (R41). -/
def CommandFields (w : ReqWord) (op : Nat) (val : Bool) (sel : BitVec 3) : Prop :=
  porBit w = false ∧ resBit w = false ∧ (opField w).toNat = op ∧ valField w = val ∧ selField w = sel

/-- The fields are the whole word. -/
theorem CommandFields.word_unique {w w' : ReqWord} {op : Nat} {val : Bool} {sel : BitVec 3}
    (h : CommandFields w op val sel) (h' : CommandFields w' op val sel) : w = w' := by
  obtain ⟨hpor, hres, hop, hval, hsel⟩ := h
  obtain ⟨hpor', hres', hop', hval', hsel'⟩ := h'
  apply BitVec.eq_of_toNat_eq
  rw [toNat_eq_fields w, toNat_eq_fields w', cmdField_toNat, cmdField_toNat, hpor, hpor', hres, hres', hop, hop',
    hval, hval', hsel, hsel']

/-- The fields of the canonical words, class by class (section 4). -/
theorem commandFields_nop : CommandFields (encode .nop).req 0 false 0 := ⟨rfl, rfl, rfl, rfl, rfl⟩

theorem commandFields_rdOf {sel : BitVec 3} {r : Reg} (h : regOfSel sel = some r) :
    CommandFields (encode (.rdOf r)).req 1 false sel := by
  unfold CommandFields
  revert sel
  cases r <;> decide

theorem commandFields_wrOf {sel : BitVec 3} {r : Reg} (h : regOfSel sel = some r) (w : Word) :
    CommandFields (encode (.wrOf r w)).req 2 false sel := by
  rw [encode_wrOf_req]
  unfold CommandFields
  revert sel
  cases r <;> decide

theorem commandFields_getOf (sel : BitVec 3) : CommandFields (encode (.getOf (flagOfSel sel))).req 3 false sel := by
  unfold CommandFields
  revert sel
  decide

theorem commandFields_setOf (sel : BitVec 3) (val : Bool) :
    CommandFields (encode (.setOf (flagOfSel sel) val)).req 4 val sel := by
  unfold CommandFields
  revert sel val
  decide

/-- With neither POR nor RES presented, only the canonical word of a request decodes to it, and its write operand is the
port. -/
theorem req_of_decodeCmd {w : ReqWord} {d : Word} {i : Instr} (hpor : porBit w = false) (hres : resBit w = false)
    (h : decodeCmd w d = .instr i) : w = (encode i).req ∧ ∀ x, i.writeOperand? = some x → x = d := by
  unfold decodeCmd at h
  split at h
  case h_1 hop =>
    split at h
    · cases h
    next hfields =>
    cases h
    obtain ⟨hval, hsel⟩ : valField w = false ∧ selField w = 0 := by simpa using hfields
    exact ⟨CommandFields.word_unique ⟨hpor, hres, hop, hval, hsel⟩ commandFields_nop, nofun⟩
  case h_2 hop =>
    split at h
    · cases h
    next hval =>
    split at h
    case h_1 r hr =>
      cases h
      exact ⟨CommandFields.word_unique ⟨hpor, hres, hop, by simpa using hval, rfl⟩ (commandFields_rdOf hr), by simp⟩
    case h_2 => cases h
  case h_3 hop =>
    split at h
    · cases h
    next hval =>
    split at h
    case h_1 r hr =>
      cases h
      exact ⟨CommandFields.word_unique ⟨hpor, hres, hop, by simpa using hval, rfl⟩ (commandFields_wrOf hr d), by simp⟩
    case h_2 => cases h
  case h_4 hop =>
    split at h
    · cases h
    next hval =>
    cases h
    exact ⟨CommandFields.word_unique ⟨hpor, hres, hop, by simpa using hval, rfl⟩ (commandFields_getOf _), by simp⟩
  case h_5 hop =>
    cases h
    exact ⟨CommandFields.word_unique ⟨hpor, hres, hop, rfl, rfl⟩ (commandFields_setOf _ _), by simp⟩
  case h_6 => cases h

/-- What a request was decoded from: POR or RES from its priority bit, a command from its canonical word (R44). -/
theorem decode_eq_instr_cases {r : Request} {i : Instr} (h : decode r = .instr i) :
    (i = .por ∧ porBit r.req = true) ∨ (i = .res ∧ porBit r.req = false ∧ resBit r.req = true) ∨
      (r.req = (encode i).req ∧ ∀ x, i.writeOperand? = some x → x = r.wdata) := by
  cases hpor : porBit r.req with
  | true =>
    cases h.symm.trans (decode_of_porBit hpor)
    exact .inl ⟨rfl, rfl⟩
  | false =>
    cases hres : resBit r.req with
    | true =>
      cases h.symm.trans (decode_of_resBit hpor hres)
      exact .inr (.inl ⟨rfl, rfl, rfl⟩)
    | false => exact .inr (.inr (req_of_decodeCmd hpor hres ((decode_of_command hpor hres).symm.trans h)))

/-! ## The rows a word selects (section 4) -/

theorem and_mask_eq_iff (w mask value : ReqWord) :
    w &&& mask = value ↔ ∀ k < 10, (w.getLsbD k && mask.getLsbD k) = value.getLsbD k := by
  rw [BitVec.eq_of_getLsbD_eq_iff]
  simp only [BitVec.getLsbD_and]

/-- POR's mask leaves `req[9]` alone (R44). -/
theorem selects_por_iff (w : ReqWord) : w &&& Instr.por.row.mask = Instr.por.row.value ↔ porBit w = true := by
  rw [and_mask_eq_iff]
  refine ⟨fun h => by simpa [Instr.row, porBit] using h 9 (by decide), fun hpor k hk => ?_⟩
  interval_cases k <;> simp_all [Instr.row, porBit]

/-- RES's mask leaves `req[9:8]` (R44). -/
theorem selects_res_iff (w : ReqWord) :
    w &&& Instr.res.row.mask = Instr.res.row.value ↔ porBit w = false ∧ resBit w = true := by
  rw [and_mask_eq_iff]
  refine ⟨fun h => ⟨by simpa [Instr.row, porBit] using h 9 (by decide),
    by simpa [Instr.row, resBit] using h 8 (by decide)⟩, fun ⟨hpor, hres⟩ k hk => ?_⟩
  interval_cases k <;> simp_all [Instr.row, porBit, resBit]

/-- The mask of the other requests but SET leaves the whole word. -/
theorem and_full_mask (w : ReqWord) : w &&& 0x3FF = w := BitVec.and_allOnes

theorem selects_nop_iff (w : ReqWord) : w &&& Instr.nop.row.mask = Instr.nop.row.value ↔ w = (encode .nop).req := by
  rw [show Instr.nop.row = ⟨(encode .nop).req, 0x3FF⟩ from rfl, and_full_mask]

theorem selects_rdOf_iff (w : ReqWord) (r : Reg) :
    w &&& (Instr.rdOf r).row.mask = (Instr.rdOf r).row.value ↔ w = (encode (.rdOf r)).req := by
  rw [row_rdOf, and_full_mask]

theorem selects_wrOf_iff (w : ReqWord) (r : Reg) (d : Word) :
    w &&& (Instr.wrOf r d).row.mask = (Instr.wrOf r d).row.value ↔ w = (encode (.wrOf r 0)).req := by
  rw [row_wrOf, and_full_mask, encode_wrOf_req]

theorem selects_getOf_iff (w : ReqWord) (f : Flag) :
    w &&& (Instr.getOf f).row.mask = (Instr.getOf f).row.value ↔ w = (encode (.getOf f)).req := by
  rw [row_getOf, and_full_mask]

/-- SET's words for 0 and 1 differ in `VAL` alone. -/
theorem encode_setOf_getLsbD (f : Flag) (v : Bool) : ∀ k < 10,
    (encode (.setOf f v)).req.getLsbD k = if k = 3 then v else (encode (.setOf f false)).req.getLsbD k := by
  cases f <;> cases v <;> decide

theorem valField_encode_setOf (f : Flag) (v : Bool) : valField (encode (.setOf f v)).req = v :=
  encode_setOf_getLsbD f v 3 (by decide)

/-- SET's mask leaves out `VAL` alone. -/
theorem setMask_getLsbD : ∀ k < 10, (0x3F7 : ReqWord).getLsbD k = !decide (k = 3) := by decide

theorem selects_setOf_iff (w : ReqWord) (f : Flag) (v : Bool) :
    w &&& (Instr.setOf f v).row.mask = (Instr.setOf f v).row.value ↔ w = (encode (.setOf f (valField w))).req := by
  rw [row_setOf, and_mask_eq_iff, BitVec.eq_of_getLsbD_eq_iff]
  refine forall₂_congr fun k hk => ?_
  rw [setMask_getLsbD k hk, encode_setOf_getLsbD f (valField w) k hk]
  by_cases hval : k = 3
  · subst hval
    have hzero : (encode (.setOf f false)).req.getLsbD 3 = false := valField_encode_setOf f false
    rw [hzero]
    simp [valField]
  · simp [hval]

/-- The canonical word of a request selects its row. -/
theorem selects_encode (i : Instr) : (encode i).req &&& i.row.mask = i.row.value := by
  cases i using instr_by_class with
  | por => exact (selects_por_iff _).mpr rfl
  | res => exact (selects_res_iff _).mpr ⟨rfl, rfl⟩
  | nop => exact (selects_nop_iff _).mpr rfl
  | rd r => exact (selects_rdOf_iff _ r).mpr rfl
  | wr r w => exact (selects_wrOf_iff _ r w).mpr (encode_wrOf_req r w)
  | get f => exact (selects_getOf_iff _ f).mpr rfl
  | set f v => rw [selects_setOf_iff, valField_encode_setOf]

/-- `VAL` of the canonical word is the bit operand. -/
theorem eq_valField_encode {i : Instr} {v : Bool} (h : i.valOperand? = some v) : v = valField (encode i).req := by
  cases i using instr_by_class with
  | set f v' =>
    rw [valOperand?_setOf, Option.some.injEq] at h
    rw [valField_encode_setOf, h]
  | por | res | nop => cases h
  | rd | wr | get => simp at h

/-! ## Decoding by the table -/

/-- The operands that a request carries are those the word (`VAL`) and the port (`wdata`) hold (R46). -/
def CarriesOperandsOf (i : Instr) (r : Request) : Prop :=
  (∀ w, i.writeOperand? = some w → w = r.wdata) ∧ ∀ v, i.valOperand? = some v → v = r.req.getLsbD 3

/-- A word that decodes to a request selects its row and holds its operands. -/
theorem selects_of_decode {r : Request} {i : Instr} (h : decode r = .instr i) :
    r.req &&& i.row.mask = i.row.value ∧ CarriesOperandsOf i r := by
  obtain ⟨rfl, hpor⟩ | ⟨rfl, hres⟩ | ⟨hword, hwdata⟩ := decode_eq_instr_cases h
  · exact ⟨(selects_por_iff _).mpr hpor, nofun, nofun⟩
  · exact ⟨(selects_res_iff _).mpr hres, nofun, nofun⟩
  · rw [CarriesOperandsOf, hword]
    exact ⟨selects_encode i, hwdata, fun v hv => eq_valField_encode hv⟩

/-- A word that selects a row decodes to a request of that row, and to the one whose operands are those presented. -/
theorem decode_of_selects {r : Request} {i : Instr} (h : r.req &&& i.row.mask = i.row.value) :
    ∃ j, decode r = .instr j ∧ j.row = i.row ∧ (CarriesOperandsOf i r → j = i) := by
  obtain ⟨req, wdata⟩ := r
  cases i using instr_by_class with
  | por => exact ⟨_, decode_of_porBit ((selects_por_iff _).mp h), rfl, fun _ => rfl⟩
  | res =>
    obtain ⟨hpor, hres⟩ := (selects_res_iff _).mp h
    exact ⟨_, decode_of_resBit hpor hres, rfl, fun _ => rfl⟩
  | nop =>
    obtain rfl := (selects_nop_iff req).mp h
    exact ⟨_, decode_encode .nop, rfl, fun _ => rfl⟩
  | rd reg =>
    obtain rfl := (selects_rdOf_iff req reg).mp h
    exact ⟨_, decode_rdOf reg wdata, rfl, fun _ => rfl⟩
  | wr reg w =>
    obtain rfl := (selects_wrOf_iff req reg w).mp h
    refine ⟨.wrOf reg wdata, encode_wrOf_req reg wdata ▸ decode_wrOf reg wdata, ?_, fun ⟨hwdata, _⟩ => ?_⟩
    · rw [row_wrOf, row_wrOf, encode_wrOf_req, encode_wrOf_req reg w]
    · rw [hwdata w (writeOperand?_wrOf reg w)]
  | get f =>
    obtain rfl := (selects_getOf_iff req f).mp h
    exact ⟨_, decode_getOf f wdata, rfl, fun _ => rfl⟩
  | set f v =>
    have hword := (selects_setOf_iff req f v).mp h
    refine ⟨.setOf f (valField req), ?_, by rw [row_setOf, row_setOf], fun ⟨_, hval⟩ => ?_⟩
    · rw [congrArg (Request.mk · wdata) hword]
      exact decode_setOf f (valField req) wdata
    · rw [hval v (valOperand?_setOf f v)]
      rfl

/-- A word decodes to a request exactly when it selects its row and holds its operands. -/
theorem decode_eq_instr_iff {r : Request} {i : Instr} :
    decode r = .instr i ↔ r.req &&& i.row.mask = i.row.value ∧ CarriesOperandsOf i r := by
  refine ⟨selects_of_decode, fun ⟨hrow, hcarries⟩ => ?_⟩
  obtain ⟨j, hdecode, -, heq⟩ := decode_of_selects hrow
  rw [hdecode, heq hcarries]

/-- Settles O2. The equivalence is `decode_eq_instr_iff`; a word that selects two rows decodes to a request of each, and it
decodes to one request. -/
theorem decodingFollowsTheOpcodeTable : Obligations.DecodingFollowsTheOpcodeTable := by
  unfold Obligations.DecodingFollowsTheOpcodeTable
  refine ⟨fun r i => decode_eq_instr_iff, fun i j w hi hj => ?_⟩
  obtain ⟨i', hdecode_i, hrow_i, -⟩ := decode_of_selects (r := ⟨w, 0⟩) hi
  obtain ⟨j', hdecode_j, hrow_j, -⟩ := decode_of_selects (r := ⟨w, 0⟩) hj
  cases hdecode_i.symm.trans hdecode_j
  exact hrow_i.symm.trans hrow_j

/-- Settles O6. Each word is its class's decoding fact, a reserved one its row of `decode_eq_reserved_iff`. -/
theorem specWordsDecodeAsListed : Obligations.SpecWordsDecodeAsListed := by
  unfold Obligations.SpecWordsDecodeAsListed
  exact ⟨decode_of_porBit rfl, decode_of_porBit rfl, decode_of_resBit rfl rfl, decode_of_resBit rfl rfl,
    decode_encode .nop, decode_rdOf .pc 0, decode_rdOf .p 0, decode_wrOf .pc 0x1234, decode_wrOf .a 0x1277,
    decode_getOf .u 0, decode_setOf .i true 0, decode_setOf .u false 0,
    (decode_eq_reserved_iff _ .wrWithVal).mpr ⟨by decide, by decide⟩,
    (decode_eq_reserved_iff _ .opReserved).mpr ⟨by decide, by decide⟩⟩

/-! ## The bits a request ignores (93_implementation_defined.md U3) -/

/-- A request other than a WR ignores the port. -/
theorem decode_eq_of_req_eq {r₁ r₂ : Request} {i : Instr} (hreq : r₁.req = r₂.req) (hi : i.writeOperand? = none)
    (h : decode r₁ = .instr i) : decode r₂ = .instr i := by
  obtain ⟨hrow, -, hval⟩ := decode_eq_instr_iff.mp h
  rw [hreq] at hrow hval
  exact decode_eq_instr_iff.mpr ⟨hrow, by simp [hi], hval⟩

/-- The port is no part of what a word decodes to, except as the operand of a WR. -/
theorem decode_eq_or_wrOf_of_req_eq {r₁ r₂ : Request} (hreq : r₁.req = r₂.req) :
    decode r₁ = decode r₂ ∨ ∃ reg, r₁.req = (encode (.wrOf reg 0)).req ∧
      decode r₁ = .instr (.wrOf reg r₁.wdata) ∧ decode r₂ = .instr (.wrOf reg r₂.wdata) := by
  cases hd : decode r₁ with
  | reserved why => exact .inl ((decode_eq_reserved_iff r₂ why).mpr (hreq ▸ (decode_eq_reserved_iff r₁ why).mp hd)).symm
  | instr i =>
    cases i using instr_by_class with
    | wr reg w =>
      obtain ⟨hrow, hwdata, -⟩ := decode_eq_instr_iff.mp hd
      have hword := (selects_wrOf_iff r₁.req reg w).mp hrow
      refine .inr ⟨reg, hword, by rw [hwdata w (writeOperand?_wrOf reg w)], decode_eq_instr_iff.mpr ⟨?_, ?_, by simp⟩⟩
      · exact (selects_wrOf_iff _ reg _).mpr (hreq ▸ hword)
      · simp
    | por | res | nop => exact .inl (decode_eq_of_req_eq hreq rfl hd).symm
    | rd reg => exact .inl (decode_eq_of_req_eq hreq (writeOperand?_rdOf reg) hd).symm
    | get f => exact .inl (decode_eq_of_req_eq hreq (writeOperand?_getOf f) hd).symm
    | set f v => exact .inl (decode_eq_of_req_eq hreq (writeOperand?_setOf f v) hd).symm

theorem opField_wrOf (reg : Reg) : opField (encode (.wrOf reg 0)).req = 2#4 := by cases reg <;> rfl

/-- `req[9:8]` = 0b01 is RES presented without POR (R44). -/
theorem decode_of_extract_eq_one {r : Request} (h : r.req.extractLsb' 8 2 = 1#2) : decode r = .instr .res := by
  have hpor : (r.req.extractLsb' 8 2).getLsbD 1 = false := by rw [h]; rfl
  have hres : (r.req.extractLsb' 8 2).getLsbD 0 = true := by rw [h]; rfl
  exact decode_of_resBit (by simpa [porBit] using hpor) (by simpa [resBit] using hres)

namespace Machine

/-- A register but PC is assigned the low byte of the port alone (R46). -/
theorem writeReg_congr {reg : Reg} (hreg : reg ≠ .pc) {w₁ w₂ : Word} (h : byteOperand w₁ = byteOperand w₂) (s : State) :
    writeReg reg w₁ s = writeReg reg w₂ s := by
  cases reg with
  | pc => exact absurd rfl hreg
  | a | x | y | sp | p => simp only [writeReg, h]

/-- Two requests that differ only in bits their request ignores, in the four ways of U3. -/
def DifferInIgnoredBits (r₁ r₂ : Request) : Prop :=
  (r₁.req.getLsbD 9 = true ∧ r₂.req.getLsbD 9 = true) ∨
    (r₁.req.extractLsb' 8 2 = 1#2 ∧ r₂.req.extractLsb' 8 2 = 1#2) ∨
    (r₁.req = r₂.req ∧ r₁.req.extractLsb' 4 4 ≠ 2#4) ∨
    (r₁.req = r₂.req ∧ r₁.req ≠ 0x024#10 ∧ r₁.wdata.extractLsb' 0 8 = r₂.wdata.extractLsb' 0 8)

theorem perform_of_instr {r : Request} {i : Instr} (h : decode r = .instr i) (s : State) : perform r s = exec i s := by
  rw [perform, h]

/-- Such bits have no part in what the block does with the request. -/
theorem perform_eq_of_differInIgnoredBits {r₁ r₂ : Request} (h : DifferInIgnoredBits r₁ r₂) (s : State) :
    perform r₁ s = perform r₂ s := by
  obtain ⟨hpor₁, hpor₂⟩ | ⟨hres₁, hres₂⟩ | ⟨hreq, hop⟩ | ⟨hreq, hpc, hbyte⟩ := h
  case inl => rw [perform_of_instr (decode_of_porBit hpor₁), perform_of_instr (decode_of_porBit hpor₂)]
  case inr.inl =>
    rw [perform_of_instr (decode_of_extract_eq_one hres₁), perform_of_instr (decode_of_extract_eq_one hres₂)]
  case inr.inr.inl =>
    obtain hsame | ⟨reg, hword, -, -⟩ := decode_eq_or_wrOf_of_req_eq hreq
    · rw [perform, perform, hsame]
    · exact absurd (hword ▸ opField_wrOf reg) hop
  case inr.inr.inr =>
    obtain hsame | ⟨reg, hword, hd₁, hd₂⟩ := decode_eq_or_wrOf_of_req_eq hreq
    · rw [perform, perform, hsame]
    · have hreg : reg ≠ .pc := fun heq => hpc (hword.trans (heq ▸ rfl))
      rw [perform_of_instr hd₁, perform_of_instr hd₂, exec_wrOf, exec_wrOf, writeReg_congr hreg hbyte]

/-- Settles O5. The step performs the request in the same state, whichever of the two is presented. -/
theorem ignoredInputBitsChangeNothing : Obligations.IgnoredInputBitsChangeNothing := by
  unfold Obligations.IgnoredInputBitsChangeNothing
  intro s rest r₁ r₂ h
  rw [step_of_inputs rfl, step_of_inputs rfl]
  exact perform_eq_of_differInIgnoredBits h (s.setInputs rest)

end Machine

end Sys2Proof
end

section
/-! What every step and every run does (00_scope.md section 6.5, 60_exceptions.md R100, R101): it takes one request, drives
one output of R47's table or the error, and nothing but the end of the run stops it. -/

namespace Sys2Proof.Machine

/-! ## One step -/

/-- A step is one function of the registers and the request: from two states that agree on both it leaves the same registers
and adds the same output to the record. -/
theorem step_agree {s s' : State} {r : Request} {rest rest' : List Request} (hreg : s.registers = s'.registers)
    (hin : s.inputs = r :: rest) (hin' : s'.inputs = r :: rest') :
    ∃ (t t' : State) (o : Output), step s = .next t ∧ step s' = .next t' ∧ t.registers = t'.registers ∧
      t.inputs = rest ∧ t'.inputs = rest' ∧ t.outputs = o :: s.outputs ∧ t'.outputs = o :: s'.outputs := by
  cases hd : decode r with
  | instr i =>
    rw [step_of_instr hin hd, step_of_instr hin' hd]
    exact exec_congr i (s := s.setInputs rest) (s' := s'.setInputs rest') hreg
  | reserved why =>
    exact ⟨_, _, _, step_of_reserved hin hd, step_of_reserved hin' hd, hreg, rfl, rfl, rfl, rfl⟩

/-- A step with a request at hand completes. -/
theorem step_completes {s : State} {r : Request} {rest : List Request} (hin : s.inputs = r :: rest) :
    ∃ (t : State) (o : Output), step s = .next t ∧ t.inputs = rest ∧ t.outputs = o :: s.outputs := by
  obtain ⟨t, -, o, ht, -, -, hin_t, -, hout, -⟩ := step_agree rfl hin hin
  exact ⟨t, o, ht, hin_t, hout⟩

theorem step_of_no_input {s : State} (hin : s.inputs = []) : step s = .fault .endOfRun := by
  rw [step, fetch_eq_none_iff.mpr hin]

/-- What a step at a request can have done, its request given. -/
theorem step_cases_of_inputs {s t : State} {r : Request} {rest : List Request} (hin : s.inputs = r :: rest)
    (h : step s = .next t) : (∃ i, decode r = .instr i ∧ exec i (s.setInputs rest) = .next t) ∨
      (∃ why, decode r = .reserved why ∧ t = (s.setInputs rest).drive .error) := by
  obtain ⟨r', rest', hin', hstep⟩ := step_cases h
  obtain ⟨rfl, rfl⟩ := List.cons.inj (hin.symm.trans hin')
  exact hstep

/-- Settles O8. -/
theorem stepRunsTheDecodedRequest : Obligations.StepRunsTheDecodedRequest := by
  unfold Obligations.StepRunsTheDecodedRequest
  exact fun s r rest i => step_of_instr

/-- The two outcomes of a step. -/
theorem step_ends_or_completes (s : State) :
    (s.inputs = [] ∧ step s = .fault .endOfRun) ∨ ∃ t, step s = .next t := by
  cases hin : s.inputs with
  | nil => exact .inl ⟨rfl, step_of_no_input hin⟩
  | cons r rest =>
    obtain ⟨t, -, ht, -⟩ := step_completes hin
    exact .inr ⟨t, ht⟩

/-- Settles O11. A step that does not end the run completes (`step_ends_or_completes`). -/
theorem onlyTheEndOfTheRunStops : Obligations.OnlyTheEndOfTheRunStops := by
  unfold Obligations.OnlyTheEndOfTheRunStops
  refine ⟨fun s => ⟨step_of_no_input, fun hfault => ?fault⟩, fun s m hrefused => ?refused⟩
  case fault =>
    obtain ⟨hin, -⟩ | ⟨t, ht⟩ := step_ends_or_completes s
    · exact hin
    · cases hfault.symm.trans ht
  case refused =>
    obtain ⟨-, hfault⟩ | ⟨t, ht⟩ := step_ends_or_completes s
    · cases hrefused.symm.trans hfault
    · cases hrefused.symm.trans ht

/-- A table word that is a request of the table is placed at the head of the host's list (log entry 8). -/
theorem withFetchWord_of_decodeTableWord {nbits w : Nat} {i : Instr} (h : decodeTableWord nbits w = some i) (s : State) :
    ∃ r, decode r = .instr i ∧ s.withFetchWord nbits w = s.setInputs (r :: s.inputs) := by
  unfold decodeTableWord at h
  unfold State.withFetchWord placeTableWord
  cases hr : requestOfTable nbits w with
  | none => simp [hr] at h
  | some r =>
    refine ⟨r, ?_, rfl⟩
    cases hd : decode r <;> simp_all

/-- Settles O7. The placed request is taken from the list again, which leaves the state it was placed in. -/
theorem placedTableWordIsTheNextRequestRun : Obligations.PlacedTableWordIsTheNextRequestRun := by
  unfold Obligations.PlacedTableWordIsTheNextRequestRun
  intro s nbits w i h
  obtain ⟨r, hd, hplaced⟩ := withFetchWord_of_decodeTableWord h s
  rw [hplaced, step_of_instr rfl hd]
  rfl

/-! ## The record of outputs -/

/-- Every row of R47's table is a legal output. -/
theorem outputOf_legal (i : Instr) (s : State) : (outputOf i s).legal = true := by
  rw [outputOf]
  cases i.returns s with
  | none => rfl
  | some v => rfl

/-- A step adds to the record an output of R47's table, or the error output for a reserved word. -/
theorem step_outputs_cases {s t : State} {r : Request} {rest : List Request} (hin : s.inputs = r :: rest)
    (h : step s = .next t) :
    (∃ i, decode r = .instr i ∧ t.outputs = outputOf i s :: s.outputs) ∨
      (∃ why, decode r = .reserved why ∧ t.outputs = .error :: s.outputs) := by
  cases hd : decode r with
  | instr i =>
    obtain ⟨t', ht', hout⟩ := step_outputs_of_instr hin hd
    cases h.symm.trans ht'
    exact .inl ⟨i, rfl, hout⟩
  | reserved why =>
    cases h.symm.trans (step_of_reserved hin hd)
    exact .inr ⟨why, rfl, rfl⟩

theorem outputsLegal_of_cons {s t : State} {o : Output} (h : t.outputs = o :: s.outputs) (ho : o.legal = true)
    (hs : s.outputsLegal = true) : t.outputsLegal = true := by
  rw [State.outputsLegal, h, List.all_cons, ho, Bool.true_and]
  exact hs

theorem errRaised_of_cons {s t : State} {o : Output} (h : t.outputs = o :: s.outputs) :
    t.errRaised = (o.err || s.errRaised) := by
  rw [State.errRaised, h, List.any_cons, State.errRaised]

/-- Settles O14. A step drives a row of R47's table or the error output, both legal. -/
theorem everyStepKeepsTheOutputsLegal : Obligations.EveryStepKeepsTheOutputsLegal := by
  unfold Obligations.EveryStepKeepsTheOutputsLegal
  intro s t hs h
  obtain ⟨r, rest, hin, -⟩ := step_cases h
  obtain ⟨i, -, hout⟩ | ⟨why, -, hout⟩ := step_outputs_cases hin h
  · exact outputsLegal_of_cons hout (outputOf_legal i s) hs
  · exact outputsLegal_of_cons hout rfl hs

/-- Settles O15. -/
theorem resetOutputsAreLegal : Obligations.ResetOutputsAreLegal := by
  unfold Obligations.ResetOutputsAreLegal
  rfl

/-- Settles O16. The output a step adds drives `err` at a reserved word (`Output.error`) and at no request
(`outputOf_err`). -/
theorem errIsRecordedExactlyForReservedRequests : Obligations.ErrIsRecordedExactlyForReservedRequests := by
  unfold Obligations.ErrIsRecordedExactlyForReservedRequests
  intro s t r rest hin h
  obtain ⟨i, hd, hout⟩ | ⟨why, hd, hout⟩ := step_outputs_cases hin h
  · rw [errRaised_of_cons hout, outputOf_err, hd]
    simp
  · rw [errRaised_of_cons hout, hd]
    simp [Output.error]

/-! ## Runs -/

/-- Runs over the same requests from states that agree on the registers stay in agreement and add the same outputs to the
record, one for each request, whatever the hosts present afterwards. -/
theorem run_agree {l rest rest' : List Request} {s s' : State} (hreg : s.registers = s'.registers)
    (hin : s.inputs = l ++ rest) (hin' : s'.inputs = l ++ rest') :
    ∃ (t t' : State) (os : List Output), run l.length s = .next t ∧ run l.length s' = .next t' ∧
      t.registers = t'.registers ∧ t.inputs = rest ∧ t'.inputs = rest' ∧ os.length = l.length ∧
      t.outputs = os ++ s.outputs ∧ t'.outputs = os ++ s'.outputs := by
  induction l generalizing s s' with
  | nil => exact ⟨s, s', [], run_zero s, run_zero s', hreg, hin, hin', rfl, rfl, rfl⟩
  | cons r l ih =>
    obtain ⟨u, u', o, hu, hu', hreg_u, hin_u, hin_u', hout_u, hout_u'⟩ := step_agree hreg hin hin'
    obtain ⟨t, t', os, ht, ht', hreg_t, hin_t, hin_t', hlen, hout_t, hout_t'⟩ := ih hreg_u hin_u hin_u'
    refine ⟨t, t', os ++ [o], (run_succ_of_step _ hu).trans ht, (run_succ_of_step _ hu').trans ht', hreg_t, hin_t, hin_t',
      ?_, ?_, ?_⟩
    · rw [List.length_append, hlen, List.length_singleton, List.length_cons]
    · rw [hout_t, hout_u, List.append_assoc, List.singleton_append]
    · rw [hout_t', hout_u', List.append_assoc, List.singleton_append]

/-- Settles O12: `run_agree` for the run with itself. -/
theorem everyRunTerminates : Obligations.EveryRunTerminates := by
  unfold Obligations.EveryRunTerminates
  intro s
  have hin : s.inputs = s.inputs ++ [] := (List.append_nil _).symm
  obtain ⟨t, -, os, ht, -, -, hin_t, -, hlen, hout, -⟩ := run_agree rfl hin hin
  refine ⟨t, ht, hin_t, ?_⟩
  rw [hout, List.length_append, hlen, Nat.add_comm]

/-- Induction along a run over a list of requests: what holds after no request, and is carried by each request's step to one
request more, holds at the end. -/
theorem run_induction {motive : Nat → State → Prop} {l rest : List Request} {s : State} (hin : s.inputs = l ++ rest)
    (zero : motive 0 s)
    (succ : ∀ n u u' r us, r ∈ l → u.inputs = r :: us → motive n u → step u = .next u' → motive (n + 1) u') :
    ∃ t, run l.length s = .next t ∧ t.inputs = rest ∧ motive l.length t := by
  induction l generalizing s motive with
  | nil => exact ⟨s, run_zero s, hin, zero⟩
  | cons r l ih =>
    obtain ⟨u, o, hu, hin_u, -⟩ := step_completes hin
    obtain ⟨t, ht, hin_t, hmotive⟩ := ih (motive := fun n => motive (n + 1)) hin_u
      (succ 0 s u r (l ++ rest) List.mem_cons_self hin zero hu)
      fun n v v' q us hq => succ (n + 1) v v' q us (List.mem_cons_of_mem r hq)
    exact ⟨t, (run_succ_of_step _ hu).trans ht, hin_t, hmotive⟩

end Sys2Proof.Machine
end

section
/-! The registers across steps and runs (10_state.md R11 to R16 and R29, 20_memory.md sections 2 and 4): what each request
leaves alone, what a write leaves behind, and what runs make of both. -/

namespace Sys2Proof.Machine

/-! ## The writers of each class (R11 to R16) -/

theorem writes_wrOf (r r' : Reg) (w : Word) : (Instr.wrOf r w).writes r' = (r' == r) := by cases r <;> rfl

theorem writes_setOf (f : Flag) (v : Bool) (r : Reg) : (Instr.setOf f v).writes r = (r == .p) := by cases f <;> rfl

/-- RES writes SP, PC and P alone (R91). -/
theorem readReg_takeReset_of_not_writes {r : Reg} (h : Instr.res.writes r = false) (s : State) :
    readReg r (takeReset s) = readReg r s := by
  cases r with
  | a | x | y => rfl
  | sp | pc | p => cases h

/-! ## What a request that is no writer of a register leaves in it -/

theorem exec_keeps_readReg {i : Instr} {s t : State} {reg : Reg} (h : exec i s = .next t) (hi : i.writes reg = false) :
    readReg reg t = readReg reg s := by
  cases i using instr_by_class with
  | por => cases hi
  | res =>
    cases (exec_res s).symm.trans h
    rw [readReg_drive, readReg_takeReset_of_not_writes hi]
  | nop =>
    cases (exec_nop s).symm.trans h
    exact readReg_drive reg s _
  | rd r =>
    cases (exec_rdOf r s).symm.trans h
    exact readReg_drive reg s _
  | wr r w =>
    cases (exec_wrOf r w s).symm.trans h
    rw [writes_wrOf] at hi
    rw [readReg_drive, readReg_writeReg_of_ne (by simpa using hi)]
  | get f =>
    cases (exec_getOf f s).symm.trans h
    exact readReg_drive reg s _
  | set f v =>
    cases (exec_setOf f v s).symm.trans h
    rw [writes_setOf] at hi
    rw [readReg_drive, writeFlag_eq_writeReg, readReg_writeReg_of_ne (by simpa using hi)]

/-- A step whose request is no writer of a register, a reserved word included, keeps it. -/
theorem step_keeps_readReg {s t : State} {r : Request} {rest : List Request} {reg : Reg} (hin : s.inputs = r :: rest)
    (hr : ∀ i, decode r = .instr i → i.writes reg = false) (h : step s = .next t) : readReg reg t = readReg reg s := by
  obtain ⟨i, hd, hexec⟩ | ⟨why, -, rfl⟩ := step_cases_of_inputs hin h
  · rw [exec_keeps_readReg hexec (hr i hd), readReg_setInputs]
  · rw [readReg_drive, readReg_setInputs]

/-- Settles O22: the contrapositive of `step_keeps_readReg`. -/
theorem onlyTheListedWritersChangeARegister : Obligations.OnlyTheListedWritersChangeARegister := by
  unfold Obligations.OnlyTheListedWritersChangeARegister
  intro s t r rest reg hin h hchanged
  by_contra hnone
  refine hchanged (step_keeps_readReg hin (fun i hd => ?_) h)
  by_contra hwrites
  exact hnone ⟨i, hd, by simpa using hwrites⟩

/-! ## What a step leaves in P, bit by bit -/

/-- Settles O31. Each writer of P that `exec_p_cases` lists is on the statement's list but for a SET or RES of another flag,
which keeps the bit. -/
theorem flagsChangeOnlyByTheirListedWriters : Obligations.FlagsChangeOnlyByTheirListedWriters := by
  unfold Obligations.FlagsChangeOnlyByTheirListedWriters
  intro s t r rest f hin h hchanged
  obtain ⟨i, hd, hexec⟩ | ⟨why, -, rfl⟩ := step_cases_of_inputs hin h
  case inr => exact absurd rfl hchanged
  case inl =>
    obtain hp | ⟨rfl, -⟩ | ⟨rfl, hp⟩ | ⟨w, rfl, -⟩ | ⟨g, v, rfl, hp⟩ := exec_p_cases hexec
    case inl => exact absurd (congrArg (·.getLsbD (flagPos f)) hp) hchanged
    case inr.inl => exact .inl hd
    case inr.inr.inl =>
      by_cases hf : f = .i
      · exact .inr (.inr (.inr ⟨hf, hd⟩))
      · rw [hp, setFlag_getLsbD_of_ne (Ne.symm hf)] at hchanged
        exact absurd rfl hchanged
    case inr.inr.inr.inl => exact .inr (.inl ⟨w, hd⟩)
    case inr.inr.inr.inr =>
      by_cases hf : g = f
      · exact .inr (.inr (.inl ⟨v, hf ▸ hd⟩))
      · rw [hp, setFlag_getLsbD_of_ne hf] at hchanged
        exact absurd rfl hchanged

/-! ## Writes -/

/-- Writing the value held changes nothing. -/
theorem writeReg_readReg (reg : Reg) (s : State) : writeReg reg (readReg reg s) s = s := by
  cases reg with
  | pc => rfl
  | a | x | y | sp | p =>
    simp only [writeReg, readReg, byteOperand_byteResult]
    rfl

/-- Settles O23. -/
theorem writingTheHeldValueChangesNothing : Obligations.WritingTheHeldValueChangesNothing := by
  unfold Obligations.WritingTheHeldValueChangesNothing
  intro reg s
  rw [exec_wrOf, writeReg_readReg]
  rfl

/-- The steps of the two register access requests that 20_memory.md section 4 speaks of. -/
theorem step_wrOf {s : State} {reg : Reg} {w : Word} {rest : List Request} (hin : s.inputs = encode (.wrOf reg w) :: rest) :
    step s = .next ((writeReg reg w (s.setInputs rest)).drive .silent) :=
  (step_of_instr hin (decode_encode _)).trans (exec_wrOf reg w _)

theorem step_rdOf {s : State} {reg : Reg} {rest : List Request} (hin : s.inputs = encode (.rdOf reg) :: rest) :
    step s = .next ((s.setInputs rest).drive (.result (readReg reg s))) := by
  rw [step_of_instr hin (decode_encode _), exec_rdOf, readReg_setInputs]

/-- Requests that are no writers of a register keep it, however many stand in a row. -/
theorem run_keeps_readReg {s : State} {l rest : List Request} {reg : Reg} (hin : s.inputs = l ++ rest)
    (hl : ∀ q ∈ l, ∀ i, decode q = .instr i → i.writes reg = false) :
    ∃ t, run l.length s = .next t ∧ t.inputs = rest ∧ readReg reg t = readReg reg s :=
  run_induction (motive := fun _ t => readReg reg t = readReg reg s) hin rfl
    fun _ _ _ q _ hq hin_u hkept hstep => (step_keeps_readReg hin_u (hl q hq) hstep).trans hkept

/-- Settles O21. The write leaves its operand in the register, the requests between keep it (`run_keeps_readReg`), and the
read returns it. -/
theorem readReturnsTheLatestWrite : Obligations.ReadReturnsTheLatestWrite := by
  unfold Obligations.ReadReturnsTheLatestWrite
  intro reg w between rest s hbetween hin
  obtain ⟨t, ht, hin_t, hreg⟩ := run_keeps_readReg
    (s := (writeReg reg w (s.setInputs (between ++ encode (.rdOf reg) :: rest))).drive .silent)
    (by rw [State.drive_inputs, writeReg_inputs, State.setInputs_inputs]) hbetween
  refine ⟨(t.setInputs rest).drive (.result (readReg reg t)), ?run, rfl, ?value⟩
  case run => rw [run_succ_of_step _ (step_wrOf hin), run_add 1 ht, run_one, step_rdOf hin_t]
  case value =>
    rw [State.drive_outputs, List.head?_cons, hreg, readReg_drive, readReg_writeReg_self]
    rfl

/-! ## Requests that write no register -/

theorem byteResult_injective {u v : Byte} (h : byteResult u = byteResult v) : u = v := by
  rw [← byteOperand_byteResult u, h, byteOperand_byteResult]

/-- The registers are what they read as. -/
theorem registers_eq_of_readReg {s t : State} (h : ∀ reg, readReg reg s = readReg reg t) : s.registers = t.registers := by
  have hpc : s.pc = t.pc := h .pc
  rw [State.registers, State.registers, byteResult_injective (h .a), byteResult_injective (h .x),
    byteResult_injective (h .y), byteResult_injective (h .sp), hpc, byteResult_injective (h .p)]

/-- A step whose request writes no register leaves the registers. -/
theorem step_keeps_registers {s t : State} {r : Request} {rest : List Request} (hin : s.inputs = r :: rest)
    (hr : ∀ i reg, decode r = .instr i → i.writes reg = false) (h : step s = .next t) : t.registers = s.registers :=
  registers_eq_of_readReg fun reg => step_keeps_readReg hin (fun i hd => hr i reg hd) h

/-- Settles O20. The runs with and without the request agree up to it (`run_agree`), its step leaves the registers
(`step_keeps_registers`), so they agree after it. -/
theorem silentRequestsMayBeInsertedAnywhere : Obligations.SilentRequestsMayBeInsertedAnywhere := by
  unfold Obligations.SilentRequestsMayBeInsertedAnywhere
  refine ⟨fun w => decode_eq_of_req_eq rfl rfl (decode_encode .nop), exec_nop, fun s before after q hq => ?_⟩
  obtain ⟨t₁, u₁, os₁, ht₁, hu₁, hregs₁, hin_t₁, hin_u₁, hlen₁, hout_t₁, hout_u₁⟩ :=
    run_agree (l := before) (s := s.setInputs (before ++ after)) (s' := s.setInputs (before ++ q :: after)) rfl rfl rfl
  obtain ⟨u₂, o, hu₂, hin_u₂, hout_u₂⟩ := step_completes hin_u₁
  have hregs₂ : t₁.registers = u₂.registers := hregs₁.trans (step_keeps_registers hin_u₁ hq hu₂).symm
  obtain ⟨t₃, u₃, os₂, ht₃, hu₃, hregs₃, -, -, hlen₂, hout_t₃, hout_u₃⟩ :=
    run_agree hregs₂ (hin_t₁.trans (List.append_nil after).symm) (hin_u₂.trans (List.append_nil after).symm)
  refine ⟨t₃, u₃, o, os₁, os₂, (run_add _ ht₁).trans ht₃, ?run, hregs₃.symm, hlen₁, hlen₂, ?without, ?inserted,
    fun hnop => ?nop⟩
  case run =>
    rw [Nat.add_comm 1]
    exact (run_add _ hu₁).trans ((run_succ_of_step _ hu₂).trans hu₃)
  case without => rw [hout_t₃, hout_t₁, State.setInputs_outputs]
  case inserted => rw [hout_u₃, hout_u₂, hout_u₁, State.setInputs_outputs]
  case nop =>
    obtain ⟨u, hu, hout⟩ := step_outputs_of_instr hin_u₁ hnop
    cases hu₂.symm.trans hu
    obtain ⟨rfl, -⟩ := List.cons.inj (hout_u₂.symm.trans hout)
    rfl

/-! ## Writes in any order -/

/-- The request that gives a register the value it holds in another state. -/
def copyRequest (want : State) (reg : Reg) : Request := encode (.wrOf reg (readReg reg want))

/-- The write of a read value gives the register that value (R46). -/
theorem readReg_writeReg_readReg (reg : Reg) (want s : State) :
    readReg reg (writeReg reg (readReg reg want) s) = readReg reg want := by
  rw [readReg_writeReg_self]
  cases reg <;> simp [readReg]

theorem errRaised_drive_silent (s : State) : (s.drive .silent).errRaised = s.errRaised :=
  errRaised_of_cons (o := .silent) rfl

@[simp] theorem errRaised_writeReg (reg : Reg) (w : Word) (s : State) : (writeReg reg w s).errRaised = s.errRaised := by
  rw [State.errRaised, writeReg_outputs, State.errRaised]

/-- A run of such requests copies the registers it names and keeps the others. -/
theorem run_copyRequests (want : State) {regs : List Reg} {s : State} (hin : s.inputs = regs.map (copyRequest want)) :
    ∃ t, run regs.length s = .next t ∧ t.errRaised = s.errRaised ∧
      ∀ reg, readReg reg t = if reg ∈ regs then readReg reg want else readReg reg s := by
  induction regs generalizing s with
  | nil => exact ⟨s, run_zero s, rfl, fun reg => by simp⟩
  | cons r regs ih =>
    obtain ⟨t, ht, herr, hregs⟩ :=
      ih (s := (writeReg r (readReg r want) (s.setInputs (regs.map (copyRequest want)))).drive .silent)
        (by rw [State.drive_inputs, writeReg_inputs, State.setInputs_inputs])
    refine ⟨t, (run_succ_of_step _ (step_wrOf hin)).trans ht, ?err, fun reg => ?reg⟩
    case err =>
      rw [herr, errRaised_drive_silent, errRaised_writeReg]
      rfl
    case reg =>
      rw [hregs, readReg_drive]
      by_cases hr : reg = r
      · simp [hr, readReg_writeReg_readReg]
      · simp [hr, readReg_writeReg_of_ne]

theorem mem_allRegs (reg : Reg) : reg ∈ allRegs := by cases reg <;> decide

/-- The registers wanted, as a state to copy them from. -/
def Registers.toState (g : Registers) : State := ⟨g.a, g.x, g.y, g.sp, g.pc, g.p, [], []⟩

theorem Registers.toState_registers (g : Registers) : g.toState.registers = g := rfl

/-- Settles O24. The requests are `copyRequest` at the six registers in some order, so the run copies all six. -/
theorem sixWritesInAnyOrderBuildAnyState : Obligations.SixWritesInAnyOrderBuildAnyState := by
  unfold Obligations.SixWritesInAnyOrderBuildAnyState
  intro s g l hperm
  have hcopies : Relation.Comp (· = List.map (copyRequest g.toState) ·) List.Perm l allRegs := by
    rw [List.eq_map_comp_perm]
    exact hperm
  obtain ⟨regs, rfl, hregs⟩ := hcopies
  obtain ⟨t, ht, herr, hread⟩ := run_copyRequests g.toState (s := s.setInputs (regs.map (copyRequest g.toState))) rfl
  have hlen : regs.length = 6 := hregs.length_eq
  refine ⟨t, hlen ▸ ht, ?_, herr⟩
  rw [← g.toState_registers]
  exact registers_eq_of_readReg fun reg => by rw [hread, if_pos (hregs.mem_iff.mpr (mem_allRegs reg))]

end Sys2Proof.Machine
end

section
/-! Resets in a row, and a request after another (42_reset_ops.md R93, 60_exceptions.md R104, 70_reset_and_hazards.md R113,
R114). -/

namespace Sys2Proof.Machine

/-! ## RES forgets PC and P.I (R104) -/

/-- Two status words that differ in bit 2 at most. -/
def AgreeButForI (p q : Byte) : Prop := ∀ k < 8, k ≠ 2 → p.getLsbD k = q.getLsbD k

/-- The reset event forgets bit 2, which it sets. -/
theorem takeReset_p_congr {s₁ s₂ : State} (h : AgreeButForI s₁.p s₂.p) : (takeReset s₁).p = (takeReset s₂).p := by
  apply BitVec.eq_of_getLsbD_eq
  intro k hk
  by_cases hI : k = 2
  · rw [hI, takeReset_p_getLsbD_two, takeReset_p_getLsbD_two]
  · rw [takeReset_p_getLsbD_of_ne hI, takeReset_p_getLsbD_of_ne hI, h k hk hI]

/-- Settles O38. The reset event leaves A, X, Y and SP by their own old values, PC a constant, and P by
`takeReset_p_congr`. -/
theorem resetLineForgetsPcAndI : Obligations.ResetLineForgetsPcAndI := by
  unfold Obligations.ResetLineForgetsPcAndI
  intro s₁ s₂ ha hx hy hsp hp hin hout
  have hsame : takeReset s₁ = takeReset s₂ := by
    refine State.eq_of_parts ?_ hin hout
    have hp' := takeReset_p_congr hp
    simp only [State.registers, takeReset_a, takeReset_x, takeReset_y, takeReset_sp, takeReset_pc, ha, hx, hy, hsp, hp']
  exact ⟨_, exec_res s₁, by rw [exec_res, hsame]⟩

/-! ## Resets in a row -/

/-- What `n` RES requests in a row leave of the state `s` they began in (R91, R93): SP is lower by 3 each, and PC and bit 2
of P are fixed by the first. -/
structure AfterResets (s : State) (n : Nat) (t : State) : Prop where
  a : t.a = s.a
  x : t.x = s.x
  y : t.y = s.y
  sp : (t.sp.toNat + 3 * n) % 256 = s.sp.toNat
  p : AgreeButForI t.p s.p
  pc_and_i : n ≠ 0 → t.pc = 0xFFFC ∧ t.p.getLsbD 2 = true

theorem AfterResets.zero (s : State) : AfterResets s 0 s where
  a := rfl
  x := rfl
  y := rfl
  sp := Nat.mod_eq_of_lt s.sp.isLt
  p _ _ _ := rfl
  pc_and_i h := absurd rfl h

theorem AfterResets.succ {s u : State} {n : Nat} (h : AfterResets s n u) :
    AfterResets s (n + 1) ((takeReset u).drive .silent) where
  a := h.a
  x := h.x
  y := h.y
  sp := by
    have hsp := h.sp
    rw [State.drive_sp, takeReset_sp_toNat]
    omega
  p k hk hI := by rw [State.drive_p, takeReset_p_getLsbD_of_ne hI, h.p k hk hI]
  pc_and_i _ := ⟨takeReset_pc u, takeReset_p_getLsbD_two u⟩

/-- SP is back where it began exactly after a multiple of 256 resets, since 3 and 256 have no common factor. -/
theorem AfterResets.sp_eq_iff {s t : State} {n : Nat} (h : AfterResets s n t) : t.sp = s.sp ↔ 256 ∣ n := by
  have hsp := h.sp
  have ht := t.sp.isLt
  rw [BitVec.toNat_eq]
  omega

/-- Any words with `req[9:8]` = 0b01, in a row. -/
theorem run_resets {rs rest : List Request} {s : State} (hin : s.inputs = rs ++ rest)
    (hrs : ∀ r ∈ rs, r.req.getLsbD 9 = false ∧ r.req.getLsbD 8 = true) :
    ∃ t, run rs.length s = .next t ∧ t.inputs = rest ∧ AfterResets s rs.length t := by
  refine run_induction hin (AfterResets.zero s) fun n u u' r us hr hin_u hn hstep => ?_
  obtain ⟨hpor, hres⟩ := hrs r hr
  cases hstep.symm.trans ((step_of_instr hin_u (decode_of_resBit hpor hres)).trans (exec_res _))
  have hn' : AfterResets s n (u.setInputs us) := ⟨hn.a, hn.x, hn.y, hn.sp, hn.p, hn.pc_and_i⟩
  exact hn'.succ

/-- Settles O34. The run is `run_resets`; two resets from the default state are `run_res_res`. -/
theorem repeatedResetLowersSpByThreeEach : Obligations.RepeatedResetLowersSpByThreeEach := by
  unfold Obligations.RepeatedResetLowersSpByThreeEach
  refine ⟨fun rs rest s hne hrs hin => ?many, _, run_res_res rfl, ?two⟩
  case many =>
    obtain ⟨t, ht, hin_t, hafter⟩ := run_resets hin hrs
    obtain ⟨hpc, hI⟩ := hafter.pc_and_i fun hlen => hne (List.eq_nil_of_length_eq_zero hlen)
    exact ⟨t, ht, hin_t, hafter.a, hafter.x, hafter.y, hpc, hI, hafter.p, hafter.sp, hafter.sp_eq_iff⟩
  case two =>
    have hsp : State.reset.sp = 0xFD := rfl
    rw [State.drive_sp, takeReset_sp, State.drive_sp, takeReset_sp, State.setInputs_sp, hsp]
    decide

/-- Settles O40. Every POR leaves the registers of a run's start, whatever went before. -/
theorem holdingPowerOnIsHarmless : Obligations.HoldingPowerOnIsHarmless := by
  unfold Obligations.HoldingPowerOnIsHarmless
  intro rs rest s hne hrs hin
  obtain ⟨t, ht, hin_t, hregs⟩ := run_induction (motive := fun n t => n ≠ 0 → t.registers = State.reset.registers) hin
    (fun h => absurd rfl h)
    fun n u u' r us hr hin_u _ hstep _ =>
      exec_por_registers ((step_of_instr hin_u (decode_of_porBit (hrs r hr))).symm.trans hstep)
  exact ⟨t, ht, hin_t, hregs fun hlen => hne (List.eq_nil_of_length_eq_zero hlen)⟩

/-! ## A request and the next one (R113) -/

section Pair

variable {s t : State} {rest : List Request}

/-- The second of two canonical requests is performed in the state the first one leaves. -/
theorem run_pair {i j : Instr} (hin : s.inputs = encode i :: encode j :: rest)
    (ht : exec i (s.setInputs (encode j :: rest)) = .next t) : run 2 s = exec j (t.setInputs rest) :=
  run_two_of_instr hin (decode_encode i) (decode_encode j) ht

/-- GET after a request returns the bit that request leaves. -/
theorem run_then_get {i : Instr} {f : Flag} (hin : s.inputs = encode i :: encode (.getOf f) :: rest)
    (ht : exec i (s.setInputs (encode (.getOf f) :: rest)) = .next t) :
    ∃ u, run 2 s = .next u ∧ u.outputs.head? = some ⟨if t.p.getLsbD (flagPos f) then 1 else 0, true, false⟩ :=
  ⟨_, (run_pair hin ht).trans (exec_getOf_eq_ite f _), rfl⟩

/-- RD after a request returns the register that request leaves. -/
theorem run_then_rd {i : Instr} {reg : Reg} (hin : s.inputs = encode i :: encode (.rdOf reg) :: rest)
    (ht : exec i (s.setInputs (encode (.rdOf reg) :: rest)) = .next t) :
    ∃ u, run 2 s = .next u ∧ u.outputs.head? = some ⟨readReg reg t, true, false⟩ := by
  refine ⟨_, (run_pair hin ht).trans (exec_rdOf reg _), ?_⟩
  rw [readReg_setInputs]
  rfl

end Pair

/-- The default P has I and U set and no other flag (R16). -/
theorem defaultP_getLsbD (f : Flag) : Config.defaultP.getLsbD (flagPos f) = decide (f = .i ∨ f = .u) := by
  cases f <;> rfl

/-- The reset event sets I and keeps the other flags (R92). -/
theorem takeReset_p_getLsbD_flagPos (f : Flag) (s : State) :
    (takeReset s).p.getLsbD (flagPos f) = (decide (f = .i) || s.p.getLsbD (flagPos f)) := by
  rw [takeReset_p]
  by_cases hf : f = .i
  · simp [hf, setFlag_getLsbD_self]
  · simp [hf, setFlag_getLsbD_of_ne (Ne.symm hf)]

/-- Settles O39. The general clause is `run_pair` with R47's outputs; the others put the state that the first request leaves
into it (`run_then_get`, `run_then_rd`). -/
theorem effectsAreVisibleToTheNextRequest : Obligations.EffectsAreVisibleToTheNextRequest := by
  unfold Obligations.EffectsAreVisibleToTheNextRequest
  refine ⟨fun i j s rest hin => ?pair, fun s w rest hin => ?wrSP_res, fun s w f v rest hin => ?wrP_set,
    fun s w f rest hin => ?wrP_get, fun s f rest hin => ?res_get, fun s f rest hin => ?por_get,
    fun s reg rest hin => ?res_rd, fun s reg rest hin => ?por_rd⟩
  case pair =>
    obtain ⟨t, ht, -⟩ := exec_outputs i (s.setInputs (encode j :: rest))
    obtain ⟨u, hu, hout⟩ := exec_outputs j (t.setInputs rest)
    refine ⟨t, u, ht, hu, (run_pair hin ht).trans hu, ?_⟩
    rw [hout, outputOf, returns_setInputs]
    cases j.returns t <;> rfl
  case wrSP_res => exact ⟨_, (run_pair hin (exec_wrOf .sp w _)).trans (exec_res _), rfl⟩
  case wrP_set =>
    refine ⟨_, (run_pair hin (exec_wrOf .p w _)).trans (exec_setOf f v _), fun k hk => ?_⟩
    rw [State.drive_p, writeFlag_p, setFlag_getLsbD, ← byteOperand_getLsbD w hk]
    rfl
  case wrP_get =>
    rw [← byteOperand_getLsbD w (flagPos_lt f)]
    exact run_then_get hin (exec_wrOf .p w _)
  case res_get =>
    obtain ⟨t, ht, hout⟩ := run_then_get hin (exec_res _)
    refine ⟨t, ht, hout.trans ?_⟩
    rw [State.drive_p, takeReset_p_getLsbD_flagPos]
    simp
  case por_get =>
    obtain ⟨t, ht, hout⟩ := run_then_get hin (exec_por _)
    refine ⟨t, ht, hout.trans ?_⟩
    rw [State.drive_p, powerOn_p, defaultP_getLsbD]
    simp
  case res_rd =>
    obtain ⟨t, ht, hout⟩ := run_then_rd hin (exec_res _)
    refine ⟨t, ht, hout.trans ?_⟩
    cases reg <;> rfl
  case por_rd =>
    obtain ⟨t, ht, hout⟩ := run_then_rd hin (exec_por _)
    refine ⟨t, ht, hout.trans ?_⟩
    cases reg <;> rfl

end Sys2Proof.Machine
end

section
/-! The assembler (30_encoding.md R48, R49): which lines assemble, and to what. -/

namespace Sys2Proof.Machine

/-- What a line assembles to decodes to its one instruction. -/
theorem decode_of_assemble {l : Line} {r : Request} (h : assemble l = some r) : decode r = .instr (lineInstr l) := by
  obtain ⟨-, rfl⟩ := assemble_eq_some_iff.mp h
  exact decode_encode _

/-- A line whose operand fits, or that has none, assembles to the canonical request of its one instruction. -/
theorem assemble_of_wellFormed {l : Line} (h : l.wellFormed = true) : assemble l = some (encode (lineInstr l)) :=
  assemble_eq_some_iff.mpr ⟨h, rfl⟩

/-- The bound of a WR's value is that of its register (R48). -/
theorem wellFormed_wr_eq_false_iff (reg : Reg) (value : Nat) :
    (Line.wr reg value).wellFormed = false ↔ (if reg = .pc then 0x10000 else 0x100) ≤ value := by
  rw [Line.wellFormed, decide_eq_false_iff_not, Nat.not_lt]
  cases reg <;> rfl

theorem wellFormed_set_eq_false_iff (f : Flag) (v : Nat) : (Line.set f v).wellFormed = false ↔ 2 ≤ v := by
  rw [Line.wellFormed, decide_eq_false_iff_not, Nat.not_lt]

/-- Every register is at most as wide as the port. -/
theorem lt_of_wellFormed_wr {reg : Reg} {value : Nat} (h : (Line.wr reg value).wellFormed = true) : value < 2 ^ 16 := by
  have hfits : value < 2 ^ reg.width := by simpa [Line.wellFormed] using h
  exact hfits.trans_le (Nat.pow_le_pow_right (by decide) (by cases reg <;> decide))

/-- Settles O41. A line that assembles gives the canonical request of its instruction (`decode_of_assemble`), and the bounds
are those of `Line.wellFormed`. -/
theorem assemblyRejectsValuesThatDoNotFit : Obligations.AssemblyRejectsValuesThatDoNotFit := by
  unfold Obligations.AssemblyRejectsValuesThatDoNotFit
  refine ⟨fun reg value => ⟨?wr_fits, fun r h => ⟨?wr_wdata, decode_of_assemble h⟩⟩,
    fun f v => ⟨?set_fits, fun r h => ⟨?set_wdata, decode_of_assemble h⟩⟩,
    ⟨_, assemble_of_wellFormed rfl, rfl, decode_encode _⟩, ⟨_, assemble_of_wellFormed rfl, rfl, decode_encode _⟩,
    ⟨_, assemble_of_wellFormed rfl, rfl, decode_encode _⟩,
    fun reg => ⟨_, assemble_of_wellFormed rfl, encode_rdOf_wdata reg, decode_encode _⟩,
    fun f => ⟨_, assemble_of_wellFormed rfl, encode_getOf_wdata f, decode_encode _⟩⟩
  case wr_fits => rw [assemble_eq_none_iff, wellFormed_wr_eq_false_iff]
  case wr_wdata =>
    obtain ⟨hwf, rfl⟩ := assemble_eq_some_iff.mp h
    rw [lineInstr, encode_wrOf_wdata, BitVec.toNat_ofNat, Nat.mod_eq_of_lt (lt_of_wellFormed_wr hwf)]
  case set_fits => rw [assemble_eq_none_iff, wellFormed_set_eq_false_iff]
  case set_wdata =>
    obtain ⟨-, rfl⟩ := assemble_eq_some_iff.mp h
    exact encode_setOf_wdata f _

/-- Settles O42. Each pseudo-request has the instruction and the bound of the request its row names. -/
theorem pseudoRequestsExpandAsTabled : Obligations.PseudoRequestsExpandAsTabled := by
  unfold Obligations.PseudoRequestsExpandAsTabled
  exact ⟨rfl, fun _ => rfl, fun _ => rfl, fun _ => rfl, rfl⟩

end Sys2Proof.Machine
end
